-- ==== Sys2Proof/Word.lean ====
section
/-! DEFINITION. The integer types of the block (spec/00_scope.md R12): every register and every memory
element is one of these bit patterns. Signed values (`i32`) are `Word`s read in two's complement. -/

namespace Sys2Proof

/-- `u1`: one observed bit (R12). -/
abbrev Bit := BitVec 1

/-- `u8`: a byte of the stream, a bit-history state, a command word (R12, R85). -/
abbrev Byte := BitVec 8

/-- `i32` (and `u32`): a 32-bit pattern; the rules read it in two's complement (R12, R13). -/
abbrev Word := BitVec 32

/-- `u12`: a probability scaled to `[0, 4095]` (R12, R21). -/
abbrev Prob := BitVec 12

/-- `u24`: the rolling match hash (R26). -/
abbrev Hash24 := BitVec 24

/-- `u16`: one cell of the APM grid (R42). -/
abbrev Cell16 := BitVec 16

end Sys2Proof
end

