-- ==== Sys2Proof/Config.lean ====
section
/-! DEFINITION. What an implementation fixes and the spec leaves open: the read-only tables and the two scalar
parameters (spec/00_scope.md R9, R10, R44; spec/92_eei_decisions.md "Named parameters left open"). The machine
runs on `Config.rom`, six constants WITHOUT a body: nothing proved about it can rest on a table value.
`Rom.Admissible` collects what the spec does fix about the tables. -/

namespace Sys2Proof

/-- The ROM bank and the scalar parameters, as one record, so that every unit of the block can be run on any
tables (R9, R10, R44). -/
structure Rom where
  /-- `T[bit][state]`, the bit-history transition table (R130). -/
  transition : Bit → Byte → Byte
  /-- `M_0 … M_6`, the seven state maps (R170, R173). -/
  stateMap : Fin 7 → Byte → Word
  /-- `SQUASH : i32 → [0, 4095]` (R201). -/
  squash : Word → Prob
  /-- `STRETCH`, 4096 entries (R203). -/
  stretch : Prob → Word
  /-- `HASH_CONST`, first argument of the five order-N hashes (R155). -/
  hashConst : Word
  /-- `HSTEP(h, c4)`, the step of the 24-bit match hash (R160). -/
  hstep : Hash24 → Word → Hash24

/-- A bit-history state that some sequence of bits produces from the virgin state 0 (R131). -/
inductive Rom.ReachableState (r : Rom) : Byte → Prop where
  | virgin : ReachableState r 0
  | observe (y : Bit) (s : Byte) : ReachableState r s → ReachableState r (r.transition y s)

/-- The constraints the spec puts on the tables (R131 (c), R171, R201, R203; the open-parameter list of
spec/92_eei_decisions.md). The ranges of `SQUASH` and `HSTEP` are in their types. -/
structure Rom.Admissible (r : Rom) : Prop where
  /-- R131 (c): a state reachable from 0 lies in `[0, 252]`. -/
  transition_closed : ∀ s, r.ReachableState s → s ≤ 252
  /-- R171: a state-map entry is a logistic-domain probability, about `[−2048, 2048]`. -/
  stateMap_range : ∀ k s, -2048 ≤ (r.stateMap k s).toInt ∧ (r.stateMap k s).toInt ≤ 2048
  /-- R201: `SQUASH` is non-decreasing. -/
  squash_mono : ∀ d e : Word, d.sle e → r.squash d ≤ r.squash e
  /-- R203 and the parameter list: `STRETCH` is non-decreasing. -/
  stretch_mono : ∀ p q : Prob, p ≤ q → (r.stretch p).sle (r.stretch q)

/-- The reference's `T` (R130, N1): not in the source, left free. Log entry 1. -/
opaque Config.transition : Bit → Byte → Byte

/-- The reference's `M_0 … M_6` (R170, N2): not in the source, left free. Log entry 1. -/
opaque Config.stateMap : Fin 7 → Byte → Word

/-- The hardware's `SQUASH` (R201, N3): an open parameter, left free. Log entry 2. -/
opaque Config.squash : Word → Prob

/-- The hardware's `STRETCH` (R203, N3): an open parameter, left free. Log entry 2. -/
opaque Config.stretch : Prob → Word

/-- The hardware's `HASH_CONST` (R155, N4): an open parameter, left free. Log entry 2. -/
opaque Config.hashConst : Word

/-- The hardware's `HSTEP` (R160, N5): an open parameter, left free. Log entry 2. -/
opaque Config.hstep : Hash24 → Word → Hash24

/-- The tables the machine runs on. -/
def Config.rom : Rom where
  transition := Config.transition
  stateMap := Config.stateMap
  squash := Config.squash
  stretch := Config.stretch
  hashConst := Config.hashConst
  hstep := Config.hstep

end Sys2Proof
end

