-- ==== Sys2Proof/Machine/Constants.lean ====
section
/-! DEFINITION. The hardwired constants (spec/10_state.md R36; spec/00_scope.md R6, R10) and the two shift and
modulus conventions every unit uses (spec/00_scope.md R13, R14). -/

namespace Sys2Proof.Machine

/-- `N = 2^26`, bytes in the ring buffer. -/
abbrev bufferSize : Nat := 2 ^ 26

/-- `HASHES = 2^24`, entries of the match hash table. -/
abbrev hashEntries : Nat := 2 ^ 24

/-- `APM_ROWS`. -/
abbrev apmRows : Nat := 65536

/-- `APM_COLS`. -/
abbrev apmCols : Nat := 33

/-- Cells of the APM grid (R60). -/
abbrev apmCells : Nat := apmRows * apmCols

/-- `MAXLEN`, the cap of the match length. -/
abbrev maxLen : Nat := 88

/-- `APM_RATE`. -/
abbrev apmRate : Nat := 7

/-- `BEGIN_RATE = 60 · 128`. -/
abbrev beginRate : Word := 7680

/-- `END_RATE = 14 · 128`. -/
abbrev endRate : Word := 1792

/-- `W_INIT`. -/
abbrev wInit : Word := 2048

/-- `C`. -/
abbrev hashC : Word := 200002979

/-- `K1`. -/
abbrev mulK1 : Word := 987654323

/-- `K2`. -/
abbrev mulK2 : Word := 123456791

/-- `a >> n`, the arithmetic right shift `floor(a / 2^n)` of the signed value (R13, decision D5). -/
def asr (a : Word) (n : Nat) : Word := a.sshiftRight n

/-- `a >>> n`, the logical right shift of the pattern (R13). -/
def lsr (a : Word) (n : Nat) : Word := a >>> n

/-- `x mod N` for a signed `x`: the non-negative remainder, the low 26 bits of the pattern (R14, R64). -/
def modN (x : Word) : Nat := x.toNat % bufferSize

end Sys2Proof.Machine
end

