-- ==== Sys2Proof/Syntax.lean ====
section
/-! DEFINITION. The three commands of the block (spec/30_encoding.md R86; spec/opcode_table.json), with the
operands of R88, R89 and R90 as the fields of the command word they are, and the lines of the spec's test
programs (R94, R95). -/

namespace Sys2Proof

/-- One constructor per row of spec/opcode_table.json. -/
inductive Instr where
  /-- `PROB`: the stored prediction (R88, R108). -/
  | prob
  /-- `UPD y`: one observed bit (R89, R109). -/
  | upd (y : Bit)
  /-- `INIT ss, ms`: reset with the two size selectors (R90, R106). -/
  | init (ss ms : BitVec 2)
  deriving DecidableEq, Repr

/-- A line of a test program: a command or a pseudo-command (R94, R95). -/
inductive AsmLine where
  /-- A command, written as itself. -/
  | command (i : Instr)
  /-- `BYTE v`: the eight bits of `v`, most significant first. -/
  | byte (v : Byte)
  /-- `BYTES "…"`: `BYTE` of each character code in turn. -/
  | bytes (vs : List Byte)
  /-- `RESET`: `INIT 2, 2`. -/
  | reset
  deriving DecidableEq, Repr

end Sys2Proof
end

