-- ==== Sys2Proof/Machine/State.lean ====
section
/-! DEFINITION. The state of the block, all of it (spec/10_state.md R20 to R43; its reset table R49), the command
and response ports (spec/30_encoding.md R85), and the reasons a step could stop. State is plain data: the five
memories are lists of (index, element) pairs that leave out every element at its reset value (R107). -/

namespace Sys2Proof.Machine

/-- `SL`, log2 of the state-store size; no other value can be expressed (R7, R35). -/
inductive StoreSize where
  | sl26 | sl27 | sl28 | sl29
  deriving DecidableEq, Repr

/-- `ML`, log2 of the mixer-pool size; 11 and 13 are not offered (R7, R35). -/
inductive PoolSize where
  | ml9 | ml10 | ml12 | ml14
  deriving DecidableEq, Repr

/-- One mixer record (R37): eight weights, the skew, the inputs and the output of its last forward pass, and its
learning rate. -/
structure Mixer where
  /-- `w[0..7] : i32`. -/
  w : Vector Word 8
  /-- `skew : i32`. -/
  skew : Word
  /-- `p[0..7] : i32`, the inputs of the last forward pass. -/
  p : Vector Word 8
  /-- `learnRate : i32`. -/
  learnRate : Word
  /-- `pr : u12`, the output of the last forward pass. -/
  pr : Prob
  deriving DecidableEq, Repr

/-- The machine's state. Registers first, then the two size selectors, the pool and the four memories, then the
model's two port fields. -/
structure State where
  /-- The stored prediction, `u12` (R21). -/
  pr : Prob
  /-- The partial byte with its sentinel 1, `u9` (R22). -/
  c0 : BitVec 9
  /-- Bits of the current byte received, `u4` (R23). -/
  bpos : BitVec 4
  /-- The last four completed bytes, newest in `[7:0]`, `i32` (R24). -/
  c4 : Word
  /-- The four bytes before those, `i32` (R25). -/
  c8 : Word
  /-- The rolling match hash, `u24` (R26). -/
  h : Hash24
  /-- Completed bytes since reset, `i32` (R27). -/
  pos : Word
  /-- Completed bytes whose bit 7 is set, `i32` (R28). -/
  binCount : Word
  /-- Length of the live match, 0 when dead, `u7` (R29). -/
  matchLen : BitVec 7
  /-- Absolute byte index of the byte expected next, `i32` (R29). -/
  matchPos : Word
  /-- The seven context bases, `i32` (R30). -/
  ctx : Vector Word 7
  /-- The seven slot pointers, `u(SL)` held in the 29 bits of the largest `SL` (R31). -/
  cp : Vector (BitVec 29) 7
  /-- Index of the active mixer, `u(ML)` held in the 14 bits of the largest `ML` (R32). -/
  mixIdx : BitVec 14
  /-- Element index of the left cell of the latest APM lookup, `u22` (R43). -/
  apmIdx : BitVec 22
  /-- `SL` (R35). -/
  sl : StoreSize
  /-- `ML` (R35). -/
  ml : PoolSize
  /-- `mixers`, the records that differ from the reset record (R37, R38). -/
  mixers : List (Nat × Mixer)
  /-- `states`, the non-zero slots (R39). -/
  states : List Host.Cell
  /-- `buffer`, the non-zero bytes (R40). -/
  buffer : List Host.Cell
  /-- `hashes`, the non-zero entries (R41). -/
  hashes : List (Nat × Word)
  /-- `apm`, the cells that differ from their column's reset value (R42). -/
  apm : List (Nat × Cell16)
  /-- The model's: the command words the host will present, the one on the command port first (R85, R18). -/
  cmdIn : List Byte
  /-- The model's: the word on the response port, `none` before the first response since power-on (R85, R92). -/
  rsp : Option (BitVec 16)
  deriving DecidableEq, Repr

/-- Why a step could stop with a fault: never. The block has no address, alignment, arithmetic or other fault
(R66, R240) and its two errors are responses after which it goes on (R236), so this type has no constructor and
no step can end in a fault (safe). -/
inductive Fault where
  deriving DecidableEq, Repr

/-- Why a step could be refused. -/
inductive Refusal where
  /-- Raised by `exec`'s arm of an instruction whose meaning is not written yet (safe: the model stops). No arm
  raises it: all three commands have their meaning. -/
  | notModelled (mnemonic : String)
  deriving DecidableEq, Repr

/-- The state after a reset with the given sizes, every field as the table R49 has it; the ports hold nothing
(log entry 4). -/
def State.initial (sl : StoreSize) (ml : PoolSize) : State where
  pr := 2048
  c0 := 1
  bpos := 0
  c4 := 0
  c8 := 0
  h := 0
  pos := 0
  binCount := 0
  matchLen := 0
  matchPos := 0
  ctx := Vector.replicate 7 0
  cp := Vector.replicate 7 0
  mixIdx := 0
  apmIdx := 0
  sl := sl
  ml := ml
  mixers := []
  states := []
  buffer := []
  hashes := []
  apm := []
  cmdIn := []
  rsp := none

/-- Power-on reset: the state `INIT 2, 2` makes, `SL = 28` and `ML = 12` (R35, R260). -/
def State.reset : State := State.initial .sl28 .ml12

end Sys2Proof.Machine
end

