-- ==== Sys2Proof/Machine/Ops.lean ====
section
/-! DEFINITION. The named operations over memories, registers and ports. A memory is a list of (index, element)
pairs in one canonical form, indices strictly rising and no element equal to its reset value (spec/40_commands.md
R107, spec/20_memory.md R61); every memory of the block goes through `Store.read` and `Store.write`. Raising an
error is one operation, `State.raise` (spec/60_exceptions.md R235, R236, R244): there is no return from one
(R245). -/

namespace Sys2Proof.Machine

/-! ### One memory -/

/-- `MemRead`: the element at index `i`; an index the list leaves out holds its reset value `dflt i` (R107). -/
def Store.read {α : Type} (dflt : Nat → α) : List (Nat × α) → Nat → α
  | [], i => dflt i
  | (j, x) :: m, i => if j = i then x else Store.read dflt m i

/-- The memory without the pairs of index `i`. -/
def Store.erase {α : Type} (m : List (Nat × α)) (i : Nat) : List (Nat × α) :=
  m.filter fun e => e.1 != i

/-- The pair `(i, v)` put before the first greater index. -/
def Store.insert {α : Type} (i : Nat) (v : α) : List (Nat × α) → List (Nat × α)
  | [] => [(i, v)]
  | (j, x) :: m => if i < j then (i, v) :: (j, x) :: m else (j, x) :: Store.insert i v m

/-- `MemWrite`: writing the reset value leaves the index out, so equal memories are equal lists. -/
def Store.write {α : Type} [DecidableEq α] (dflt : Nat → α) (m : List (Nat × α)) (i : Nat) (v : α) :
    List (Nat × α) :=
  if v = dflt i then Store.erase m i else Store.insert i v (Store.erase m i)

/-- The canonical form of a memory with `size` elements: indices in range and strictly rising, no element at its
reset value. -/
abbrev Store.wf {α : Type} (dflt : Nat → α) (size : Nat) (m : List (Nat × α)) : Prop :=
  m.Pairwise (fun a b => a.1 < b.1) ∧ (∀ e ∈ m, e.1 < size) ∧ ∀ e ∈ m, e.2 ≠ dflt e.1

/-! ### What an element holds at reset -/

/-- The reset value of every state slot, buffer byte and hash entry is 0 (R39, R40, R41). -/
def zeroCell {n : Nat} : Nat → BitVec n := fun _ => 0

/-- The reset record of the mixer pool (R38). -/
def Mixer.initial : Mixer where
  w := Vector.replicate 8 wInit
  skew := 0
  p := Vector.replicate 8 0
  learnRate := beginRate
  pr := 2048

/-- Every mixer record resets alike (R38). -/
def mixerReset : Nat → Mixer := fun _ => Mixer.initial

/-- The reset value of column `j` of every APM row: `SQUASH((j − 16) · 128) · 16` (R42, R216). -/
def apmColumn (r : Rom) (j : Nat) : Cell16 :=
  (r.squash ((BitVec.ofNat 32 j - 16) * 128)).setWidth 16 * 16

/-- The reset value of APM element `c · 33 + j` (R42). -/
def apmReset (r : Rom) : Nat → Cell16 := fun i => apmColumn r (i % apmCols)

/-! ### The five memories -/

/-- `MemRead(states, i, 1)` (R60). -/
def State.slot (s : State) (i : Nat) : Byte := Store.read zeroCell s.states i

/-- `MemWrite(states, i, 1, v)`. -/
def State.setSlot (s : State) (i : Nat) (v : Byte) : State :=
  { s with states := Store.write zeroCell s.states i v }

/-- `MemRead(buffer, i, 1)` (R60). -/
def State.bufferByte (s : State) (i : Nat) : Byte := Store.read zeroCell s.buffer i

/-- `MemWrite(buffer, i, 1, v)`. -/
def State.setBufferByte (s : State) (i : Nat) (v : Byte) : State :=
  { s with buffer := Store.write zeroCell s.buffer i v }

/-- `MemRead(hashes, i, 4)` (R60). -/
def State.hashEntry (s : State) (i : Nat) : Word := Store.read zeroCell s.hashes i

/-- `MemWrite(hashes, i, 4, v)`. -/
def State.setHashEntry (s : State) (i : Nat) (v : Word) : State :=
  { s with hashes := Store.write zeroCell s.hashes i v }

/-- The record `mixers[j]` (R37, R60). -/
def State.mixer (s : State) (j : Nat) : Mixer := Store.read mixerReset s.mixers j

/-- Writing the record `mixers[j]`. -/
def State.setMixer (s : State) (j : Nat) (m : Mixer) : State :=
  { s with mixers := Store.write mixerReset s.mixers j m }

/-- `MemRead(apm, i, 2)` (R60). -/
def State.apmCell (r : Rom) (s : State) (i : Nat) : Cell16 := Store.read (apmReset r) s.apm i

/-- `MemWrite(apm, i, 2, v)`. -/
def State.setApmCell (r : Rom) (s : State) (i : Nat) (v : Cell16) : State :=
  { s with apm := Store.write (apmReset r) s.apm i v }

/-! ### Response and errors -/

/-- The error codes (R235). -/
inductive ResponseCode where
  /-- `0`, `OK`. -/
  | ok
  /-- `1`, the command word decodes to no command (R237). -/
  | illegalCommand
  /-- `2`, an `UPD` that would complete byte number `2^31` (R239). -/
  | positionOverrun
  deriving DecidableEq, Repr

/-- `rsp[15]` (R92). -/
def errBit : ResponseCode → BitVec 1
  | .ok => 0
  | .illegalCommand => 1
  | .positionOverrun => 1

/-- `rsp[14:12]` (R92, R235). -/
def codeField : ResponseCode → BitVec 3
  | .ok => 0
  | .illegalCommand => 1
  | .positionOverrun => 2

/-- The response word `err ‖ code ‖ val` (R92). -/
def responseWord (c : ResponseCode) (val : Prob) : BitVec 16 := errBit c ++ codeField c ++ val

/-- Ending a command: its one response word is presented (R85, R92). -/
def State.respond (s : State) (c : ResponseCode) (val : Prob) : State :=
  { s with rsp := some (responseWord c val) }

/-- `raise <Error>`: the error response with `val = 0`, and no other change of state (R15, R236, R244). -/
def State.raise (s : State) (c : ResponseCode) : State := s.respond c 0

end Sys2Proof.Machine
end

