-- ==== Sys2Proof/Machine/Operands.lean ====
section
/-! DEFINITION. The operand forms: how the `INIT` selectors name sizes (spec/30_encoding.md R90) and how each
memory is indexed (spec/20_memory.md R63 to R65), the block's addressing modes. -/

namespace Sys2Proof.Machine

/-- The selector `ss` (R90). -/
def storeSizeOf (ss : BitVec 2) : StoreSize :=
  if ss = 0 then .sl26 else if ss = 1 then .sl27 else if ss = 2 then .sl28 else .sl29

/-- The selector `ms` (R90). -/
def poolSizeOf (ms : BitVec 2) : PoolSize :=
  if ms = 0 then .ml9 else if ms = 1 then .ml10 else if ms = 2 then .ml12 else .ml14

/-- `SL` as a number (R7). -/
def StoreSize.log2 : StoreSize → Nat
  | .sl26 => 26
  | .sl27 => 27
  | .sl28 => 28
  | .sl29 => 29

/-- `ML` as a number (R7). -/
def PoolSize.log2 : PoolSize → Nat
  | .ml9 => 9
  | .ml10 => 10
  | .ml12 => 12
  | .ml14 => 14

/-- `statesMask = 2^SL − 1` (R35). -/
def statesMask (sl : StoreSize) : Word := BitVec.ofNat 32 (2 ^ sl.log2 - 1)

/-- `mixersMask = 2^ML − 1` (R35). -/
def mixersMask (ml : PoolSize) : Word := BitVec.ofNat 32 (2 ^ ml.log2 - 1)

/-- Slot index `(ctx[k] + c0) & statesMask`, the sum wrapping at 32 bits (R63, R134). -/
def slotIndex (sl : StoreSize) (ctx : Word) (c0 : BitVec 9) : BitVec 29 :=
  ((ctx + c0.setWidth 32) &&& statesMask sl).setWidth 29

/-- Mixer index `c4 & mixersMask` (R65, R114). -/
def mixerIndex (ml : PoolSize) (c4 : Word) : BitVec 14 := (c4 &&& mixersMask ml).setWidth 14

/-- APM context `c0 | (c4 & 0xFF00)` (R218). -/
def apmContext (c0 : BitVec 9) (c4 : Word) : Word := c0.setWidth 32 ||| (c4 &&& 0xFF00)

/-- APM element index `ctx · 33 + k` (R65, R221). -/
def apmIndex (ctx k : Word) : BitVec 22 := (ctx * 33 + k).setWidth 22

/-- The seven lanes in ascending order, the order of every loop over `k` (R73). -/
def lanes : List (Fin 7) := [0, 1, 2, 3, 4, 5, 6]

end Sys2Proof.Machine
end

