-- ==== Sys2Proof/Machine/Apm.lean ====
section
/-! DEFINITION. The secondary probability map and the bias step (spec/45_apm.md), steps 7 and 8 of `UPD`. -/

namespace Sys2Proof.Machine

/-- A cell moved toward `y << 16` at the rate 7, stored in 16 bits (R219). -/
def trainCell (y : Bit) (c : Cell16) : Cell16 :=
  (c.setWidth 32 + asr (y.setWidth 32 <<< 16 - c.setWidth 32) apmRate).setWidth 16

/-- The training write of one cell (R219). -/
def trainApmCell (r : Rom) (y : Bit) (i : Nat) (s : State) : State :=
  s.setApmCell r i (trainCell y (s.apmCell r i))

/-- The training write: the two cells of the previous lookup, in ascending order (R219, R217). -/
def trainApm (r : Rom) (y : Bit) (s : State) : State :=
  trainApmCell r y (s.apmIdx.toNat + 1) (trainApmCell r y s.apmIdx.toNat s)

/-- `STRETCH[pr_in]` clamped to `[−2047, 2047]` (R220). -/
def stretched (r : Rom) (p : Prob) : Word :=
  if (2047#32).slt (r.stretch p) then 2047
  else if (r.stretch p).slt (-2047#32) then -2047#32
  else r.stretch p

/-- Column `k = (sx + 2048) >> 7` (R220). -/
def apmColumnOf (sx : Word) : Word := asr (sx + 2048) 7

/-- Interpolation weight `w = sx & 127` (R220). -/
def apmWeight (sx : Word) : Word := sx &&& 127

/-- The interpolation `(a · (128 − w) + b · w) >> 11` (R221). -/
def interpolate (a b : Cell16) (w : Word) : Prob :=
  (asr (a.setWidth 32 * (128 - w) + b.setWidth 32 * w) 11).setWidth 12

/-- The lookup's write: `apmIdx <- ctx · 33 + k` (R221). -/
def aimApm (sx ctx : Word) (s : State) : State :=
  { s with apmIdx := apmIndex ctx (apmColumnOf sx) }

/-- The lookup's value, read at the `apmIdx` just written (R221). -/
def apmValue (r : Rom) (sx : Word) (s : State) : Prob :=
  interpolate (s.apmCell r s.apmIdx.toNat) (s.apmCell r (s.apmIdx.toNat + 1)) (apmWeight sx)

/-- `BIAS(a)` (R225). -/
def bias (a : Prob) : Prob :=
  if a = 2047 ∨ a = 2048 then (a.setWidth 32 + asr (a.setWidth 32 - 2048) 31).setWidth 12 else a

/-- Steps 7 and 8: train, look up, bias, and store `pr` (R217, R222, R225). The context is the one of R218, after
steps 2 and 3. -/
def refine (r : Rom) (y : Bit) (prMixed : Prob) (s : State) : State :=
  let t := aimApm (stretched r prMixed) (apmContext s.c0 s.c4) (trainApm r y s)
  { t with pr := bias (apmValue r (stretched r prMixed) t) }

end Sys2Proof.Machine
end

