-- ==== Sys2Proof/Machine/BitHistory.lean ====
section
/-! DEFINITION. The bit-history state machine: `NEXT` and `MOVE`, step 4 of `UPD` (spec/41_bit_history.md). -/

namespace Sys2Proof.Machine

/-- `NEXT(k, y)`: advance the history that pointer `k` names (R132). -/
def nextHistory (r : Rom) (y : Bit) (k : Fin 7) (s : State) : State :=
  s.setSlot s.cp[k].toNat (r.transition y (s.slot s.cp[k].toNat))

/-- `MOVE(k)`: re-aim pointer `k` (R134). -/
def movePointer (k : Fin 7) (s : State) : State :=
  { s with cp := s.cp.set k.val (slotIndex s.sl s.ctx[k] s.c0) k.isLt }

/-- Step 4: for `k = 0 … 6`, `NEXT` then `MOVE`, each lane seeing the slots as the earlier lanes left them
(R117, R133, R73). -/
def advanceHistories (r : Rom) (y : Bit) (s : State) : State :=
  lanes.foldl (fun s k => movePointer k (nextHistory r y k s)) s

end Sys2Proof.Machine
end

