-- ==== Sys2Proof/Machine/Flags.lean ====
section
/-! DEFINITION. The block stores no flags (spec/10_state.md R34). These are the conditions it computes where it
uses them, and the one condition on which a command is refused (spec/40_commands.md R124). -/

namespace Sys2Proof.Machine

/-- `byteBoundary`: `c0 > 255` after a bit has been folded in (R111). -/
def byteBoundary (s : State) : Bool := (255#9).ult s.c0

/-- `textMode`: `binCount < pos >> 2`, evaluated at a byte boundary (R148). -/
def textMode (s : State) : Bool := s.binCount.slt (asr s.pos 2)

/-- `matchAlive`: `matchLen > 0` (R177). -/
def matchAlive (s : State) : Bool := (0#7).ult s.matchLen

/-- "No byte has high bit": none of the four bytes of `x` has its bit 7 set (R149, decision D10). -/
def noHighBit (x : Word) : Bool := x &&& 0x80808080 == 0

/-- The `UPD` that would complete byte number `2^31`: `bpos = 7` and `pos = 2^31 − 1` (R124, R239). -/
def positionOverrun (s : State) : Bool := s.bpos == 7 && s.pos == 0x7FFFFFFF

end Sys2Proof.Machine
end

