-- ==== Sys2Proof/Machine/Hasher.lean ====
section
/-! DEFINITION. The context fingerprint hasher (spec/42_context_hasher.md), steps 3b and 3d of `UPD`. All arithmetic
wraps at 32 bits; `>>` is arithmetic (spec/00_scope.md R13). -/

namespace Sys2Proof.Machine

/-- `SHIFT(B)`: `c8` takes the byte leaving `c4`, then `c4` takes `B` (R146). -/
def shiftBytes (b : Byte) (s : State) : State :=
  { s with
    c8 := s.c8 <<< 8 ||| lsr s.c4 24
    c4 := s.c4 <<< 8 ||| b.setWidth 32 }

/-- `h <- HSTEP(h, c4)`, with the new `c4` (R160). -/
def stepHash (r : Rom) (s : State) : State := { s with h := r.hstep s.h s.c4 }

/-- `COUNT(B)`: `binCount <- binCount + (B >> 7)` (R147). -/
def countHighBit (b : Byte) (s : State) : State :=
  { s with binCount := s.binCount + (b >>> 7).setWidth 32 }

/-- `h1` (R149, R150). -/
def hash1 (s : State) : Word :=
  if textMode s then (if noHighBit s.c4 then s.c4 else asr s.c4 16) else asr s.c4 16

/-- `h2` (R149, R150). -/
def hash2 (s : State) : Word :=
  if textMode s then (if noHighBit s.c8 then s.c8 else asr s.c8 16) else asr s.c8 16

/-- `h3` (R149, R150). -/
def hash3 (s : State) : Word :=
  if textMode s then s.c4 ^^^ (s.c8 &&& 0xFFFF) else s.c4 ^^^ (s.c4 &&& 0xFFFF)

/-- `hashTPAQ(x, y)` (R151). -/
def hashTPAQ (x y : Word) : Word :=
  asr (x * hashC ^^^ y * hashC) 1 ^^^ asr (x * hashC ^^^ y * hashC) 9 ^^^ asr x 2 ^^^ asr y 3 ^^^ hashC

/-- `rot16(t)`, the two halves swapped (R154). -/
def rot16 (t : Word) : Word := t <<< 16 ||| lsr t 16

/-- `addContext(id, v)` (R153). -/
def addContext (id v : Word) : Word := rot16 (v * mulK1 + id) * mulK2 + id

/-- The context base `ctx[k]` (R156, R157, R158). -/
def contextBase (r : Rom) (s : State) (k : Fin 7) : Word :=
  match k with
  | 0 => addContext 0 (hash3 s)
  | 1 => addContext 1 (hashTPAQ r.hashConst (s.c4 <<< 24))
  | 2 => addContext 2 (hashTPAQ r.hashConst (s.c4 <<< 16))
  | 3 => addContext 3 (hashTPAQ r.hashConst (s.c4 <<< 8))
  | 4 => addContext 4 (hashTPAQ r.hashConst (s.c4 &&& 0xF0F0F0F0))
  | 5 => addContext 5 (hashTPAQ r.hashConst s.c4)
  | 6 => addContext 6 (hashTPAQ (hash1 s) (hash2 s))

/-- `CONTEXTS()`: all seven bases (R152). -/
def recomputeContexts (r : Rom) (s : State) : State :=
  { s with ctx := Vector.ofFn (contextBase r s) }

end Sys2Proof.Machine
end

