-- ==== Sys2Proof/Machine/Match.lean ====
section
/-! DEFINITION. The state-map bank, the match finder and the match-prediction input (spec/43_lut_bank_match.md). -/

namespace Sys2Proof.Machine

/-! ### State maps -/

/-- `SMAP(k)`: `M_k` of the state the re-aimed pointer names (R172). -/
def mapInput (r : Rom) (s : State) (k : Fin 7) : Word := r.stateMap k (s.slot s.cp[k].toNat)

/-! ### Match finder -/

/-- The two bytes the backward walk compares at distance `d`: `buffer[(pos − d) mod N]` and
`buffer[(p − d) mod N]` (R180). -/
def walkAgrees (s : State) (p : Word) (d : Nat) : Bool :=
  s.bufferByte (modN (s.pos - BitVec.ofNat 32 d)) == s.bufferByte (modN (p - BitVec.ofNat 32 d))

/-- The backward walk from distance `d` with `fuel` comparisons left: how many more distances agree before the
first that does not (R180). -/
def walkBack (s : State) (p : Word) : Nat → Nat → Nat
  | 0, _ => 0
  | fuel + 1, d => if walkAgrees s p d then walkBack s p fuel (d + 1) + 1 else 0

/-- The candidate test: `p ≠ 0` and `pos − p ≤ N − 1`, signed (R179). -/
def candidateOk (s : State) (p : Word) : Bool :=
  p != 0 && (s.pos - p).sle (BitVec.ofNat 32 (bufferSize - 1))

/-- The alive branch: extend by one, capped at 88, and advance `matchPos` (R178). -/
def extendMatch (s : State) : State :=
  { s with
    matchLen := if s.matchLen.toNat < maxLen then s.matchLen + 1 else s.matchLen
    matchPos := s.matchPos + 1 }

/-- The lookup branch: `r − 1` of R181 is the number of agreeing distances `1, 2, …, ≤ 88`. -/
def lookUpMatch (s : State) : State :=
  if candidateOk s (s.hashEntry s.h.toNat) then
    { s with
      matchLen := BitVec.ofNat 7 (walkBack s (s.hashEntry s.h.toNat) maxLen 1)
      matchPos := s.hashEntry s.h.toNat }
  else s

/-- `MATCH_FIND()` (R177). -/
def findMatch (s : State) : State := if matchAlive s then extendMatch s else lookUpMatch s

/-- The table write that follows the finder: `hashes[h] <- pos` (R182). -/
def recordPosition (s : State) : State := s.setHashEntry s.h.toNat s.pos

/-! ### Match-prediction input -/

/-- The byte expected next, `buffer[matchPos mod N]` (R185). -/
def expectedByte (s : State) : Byte := s.bufferByte (modN s.matchPos)

/-- The agreement test `((E | 256) >> (8 − bpos)) = c0` (R185, R186). -/
def matchAgrees (s : State) : Bool :=
  ((expectedByte s).setWidth 9 ||| 256#9) >>> (8 - s.bpos.toNat) == s.c0

/-- The strength `L` (R185, R187). -/
def matchStrength (matchLen : BitVec 7) : Word :=
  if matchLen.toNat ≤ 24 then matchLen.setWidth 32
  else 24 + lsr (matchLen.setWidth 32 - 24) 3

/-- `bitExpected = (E >> (7 − bpos)) & 1` (R185). -/
def bitExpected (s : State) : Bit := (expectedByte s >>> (7 - s.bpos.toNat)).setWidth 1

/-- The value of `MATCH_INPUT()` (R185). -/
def matchInput (s : State) : Word :=
  if matchAlive s && matchAgrees s then
    if bitExpected s = 0 then -(matchStrength s.matchLen * 64) else matchStrength s.matchLen * 64
  else 0

/-- The write of `MATCH_INPUT()`: a match that disagrees is killed (R185, R186). -/
def killMatch (s : State) : State :=
  if matchAlive s && !matchAgrees s then { s with matchLen := 0 } else s

/-- The eight mixer inputs of step 5 (R118). -/
def gatherInputs (r : Rom) (s : State) : Vector Word 8 :=
  Vector.ofFn fun i : Fin 8 => if h : i.val < 7 then mapInput r s ⟨i.val, h⟩ else matchInput s

end Sys2Proof.Machine
end

