-- ==== Sys2Proof/Machine/Mixing.lean ====
section
/-! DEFINITION. The per-context linear mixer (spec/44_mixer.md): `MIX_UPDATE`, step 1, and `MIX_GET`, step 6. -/

namespace Sys2Proof.Machine

/-- `Σ w[i] · p[i] + skew`, wrapping (R196). -/
def dotProduct (m : Mixer) (p : Vector Word 8) : Word :=
  m.skew + m.w[0] * p[0] + m.w[1] * p[1] + m.w[2] * p[2] + m.w[3] * p[3]
    + m.w[4] * p[4] + m.w[5] * p[5] + m.w[6] * p[6] + m.w[7] * p[7]

/-- The forward pass's result, `SQUASH((sum + 65536) >> 17)` (R196). -/
def mixOutput (r : Rom) (m : Mixer) (p : Vector Word 8) : Prob :=
  r.squash (asr (dotProduct m p + 65536) 17)

/-- `MIX_GET(m, p)`: the inputs and the result are cached in the record (R196). -/
def Mixer.forward (r : Rom) (p : Vector Word 8) (m : Mixer) : Mixer :=
  { m with p := p, pr := mixOutput r m p }

/-- The raw error `(y << 12) − pr` (R198). -/
def Mixer.rawError (y : Bit) (m : Mixer) : Word := y.setWidth 32 <<< 12 - m.pr.setWidth 32

/-- The scaled error `(err · learnRate) >> 7` (R198). -/
def Mixer.scaledError (y : Bit) (m : Mixer) : Word := asr (m.rawError y * m.learnRate) 7

/-- `MIX_UPDATE(m, y)` (R198); a zero error writes nothing (R209). -/
def Mixer.train (y : Bit) (m : Mixer) : Mixer :=
  if m.rawError y = 0 then m
  else
    { m with
      learnRate := m.learnRate + asr (endRate - m.learnRate) 31
      skew := m.skew + m.scaledError y
      w := Vector.ofFn fun i : Fin 8 => m.w[i] + asr (m.p[i] * m.scaledError y) 15 }

/-- Step 1: train the record in force on entry (R122). -/
def trainActiveMixer (y : Bit) (s : State) : State :=
  s.setMixer s.mixIdx.toNat ((s.mixer s.mixIdx.toNat).train y)

/-- Step 6: run the active record on the eight inputs (R119). -/
def mixForward (r : Rom) (p : Vector Word 8) (s : State) : State :=
  s.setMixer s.mixIdx.toNat ((s.mixer s.mixIdx.toNat).forward r p)

end Sys2Proof.Machine
end

