-- ==== Sys2Proof/Machine/Commands.lean ====
section
/-! DEFINITION. The three commands (spec/40_commands.md). Each unit's operations are in its own file; this one
fixes the order in which `UPD` runs them, which is normative (R109, spec/20_memory.md R73). `updState` is `UPD`
on any ROM bank; `execUpd` is the machine's, on `Config.rom`. -/

namespace Sys2Proof.Machine

/-- Step 2: `c0 <- (c0 << 1) | y`, `bpos <- bpos + 1` (R110). -/
def foldBit (y : Bit) (s : State) : State :=
  { s with c0 := s.c0 <<< 1 ||| y.setWidth 9, bpos := s.bpos + 1 }

/-- `B = c0 & 0xFF`, the byte just completed (R111). -/
def completedByte (s : State) : Byte := s.c0.setWidth 8

/-- Step 3a: `buffer[pos mod N] <- B`, then `pos <- pos + 1` (R112). -/
def storeByte (b : Byte) (s : State) : State :=
  let t := s.setBufferByte (modN s.pos) b
  { t with pos := t.pos + 1 }

/-- The end of step 3b: `c0 <- 1`, `bpos <- 0` (R113). -/
def startByte (s : State) : State := { s with c0 := 1, bpos := 0 }

/-- Step 3c: `mixIdx <- c4 & mixersMask` (R114). -/
def selectMixer (s : State) : State := { s with mixIdx := mixerIndex s.ml s.c4 }

/-- Steps 3a and 3b: the byte is stored, and the rolling contexts, the match hash and the counters take it
(R112, R113). -/
def absorbByte (r : Rom) (b : Byte) (s : State) : State :=
  startByte (countHighBit b (stepHash r (shiftBytes b (storeByte b s))))

/-- Step 3: the byte-boundary work, in the order of R112 to R116. -/
def completeByte (r : Rom) (s : State) : State :=
  recordPosition (findMatch (recomputeContexts r (selectMixer (absorbByte r (completedByte s) s))))

/-- Steps 2 and 3: fold the bit and, on a byte boundary, do the boundary work (R110, R111). -/
def takeBit (r : Rom) (y : Bit) (s : State) : State :=
  if byteBoundary (foldBit y s) then completeByte r (foldBit y s) else foldBit y s

/-- Steps 5 to 8: gather the inputs, mix, refine, bias, store `pr` (R118 to R121). -/
def predict (r : Rom) (y : Bit) (s : State) : State :=
  let t := mixForward r (gatherInputs r s) (killMatch s)
  refine r y (t.mixer t.mixIdx.toNat).pr t

/-- Steps 1 to 8 of `UPD y` (R109). -/
def updState (r : Rom) (y : Bit) (s : State) : State :=
  predict r y (advanceHistories r y (takeBit r y (trainActiveMixer y s)))

/-- `UPD y` on the ROM bank `r`: step 0 refuses the bit that would overrun `pos` (R124), else steps 1 to 8 and the
response `0x0000` (R109). -/
def updWith (r : Rom) (y : Bit) (s : State) : State :=
  if positionOverrun s then s.raise .positionOverrun else (updState r y s).respond .ok 0

/-- `PROB` (R108): responds with the stored `pr` and writes nothing else. -/
def execProb (s : State) : Host.Outcome State Fault Refusal := .next (s.respond .ok s.pr)

/-- `UPD y` (R109). -/
def execUpd (y : Bit) (s : State) : Host.Outcome State Fault Refusal := .next (updWith Config.rom y s)

/-- `INIT ss, ms` (R106): every piece of state at its reset value under the selected sizes; the host's command
stream is not the block's and stays. -/
def execInit (ss ms : BitVec 2) (s : State) : Host.Outcome State Fault Refusal :=
  .next (State.respond { State.initial (storeSizeOf ss) (poolSizeOf ms) with cmdIn := s.cmdIn } .ok 0)

end Sys2Proof.Machine
end

