-- ==== Sys2Proof/Machine/Dispatch.lean ====
section
/-! DEFINITION. One arm per constructor of `Instr` (spec/40_commands.md R105). -/

namespace Sys2Proof.Machine

def exec (i : Instr) (s : State) : Host.Outcome State Fault Refusal :=
  match i with
  | .prob => Sys2Proof.Machine.execProb s
  | .upd y => Sys2Proof.Machine.execUpd y s
  | .init ss ms => Sys2Proof.Machine.execInit ss ms s

end Sys2Proof.Machine
end

