-- ==== Sys2Proof/WellFormed.lean ====
section
/-! DEFINITION. Which command words are legal (spec/30_encoding.md R91) and which instructions are well formed.
The operands of `Instr` are exactly the bits the encoding has for them, so every `Instr` is well formed
(spec/40_commands.md R106: "all sixteen selector pairs are legal"); the checks that can fail are the three
match and mask tests on a command word. -/

namespace Sys2Proof

/-- Every instruction term is well formed: `y` is one bit and `ss`, `ms` are two bits each (R89, R90, R93). -/
def Instr.WellFormed : Instr → Bool
  | .prob => true
  | .upd _ => true
  | .init _ _ => true

/-- The row `PROB`: match `0x00`, mask `0xFF` (R88). -/
def isProbWord (w : Byte) : Bool := w &&& 0xFF#8 == 0x00#8

/-- The row `UPD`: match `0x40`, mask `0xFE` (R89). -/
def isUpdWord (w : Byte) : Bool := w &&& 0xFE#8 == 0x40#8

/-- The row `INIT`: match `0x80`, mask `0xC3` (R90). -/
def isInitWord (w : Byte) : Bool := w &&& 0xC3#8 == 0x80#8

/-- A command word is legal when it matches one of the three rows; every other word is illegal (R91). -/
def legalWord (w : Byte) : Bool := isProbWord w || isUpdWord w || isInitWord w

end Sys2Proof
end

