-- ==== Sys2Proof/Decode.lean ====
section
/-! DEFINITION. The total decoder of a command word (spec/30_encoding.md R96), the encoder (R88 to R90), the
command word written in `MNEMONIC` order of its fields (R87), and the host's entry point `decodeTableWord`. -/

namespace Sys2Proof

/-- The bit field `v[lo + n - 1 : lo]` (spec/00_scope.md R11). -/
def bitField (v : Byte) (lo n : Nat) : BitVec n := v.extractLsb' lo n

/-- The decoder of R96: `none` for the 237 illegal words of R91. -/
def decode (w : Byte) : Option Instr :=
  if w = 0x00#8 then some .prob
  else if w &&& 0xFE#8 = 0x40#8 then some (.upd (bitField w 0 1))
  else if w &&& 0xC3#8 = 0x80#8 then some (.init (bitField w 4 2) (bitField w 2 2))
  else none

/-- The command word of an instruction, field by field from the top as R87's table lays them out:
`op`, `arg[5:4]`, `arg[3:2]`, `arg[1]`, `arg[0]`. -/
def encode : Instr → Byte
  | .prob => 0b00#2 ++ 0b00#2 ++ 0b00#2 ++ 0#1 ++ 0#1
  | .upd y => 0b01#2 ++ 0b00#2 ++ 0b00#2 ++ 0#1 ++ y
  | .init ss ms => 0b10#2 ++ ss ++ ms ++ 0#1 ++ 0#1

/-- The command word a table word of `nbits` bits stands for: commands are a single byte (R85), and every bit
above `nbits` is 0. -/
def tableByte (nbits w : Nat) : Byte := BitVec.ofNat 8 (w % 2 ^ nbits)

/-- The instruction the decoder reads from the command word whose bits are `w`. -/
def decodeTableWord (nbits w : Nat) : Option Instr := decode (tableByte nbits w)

end Sys2Proof
end

