-- ==== Sys2Proof/Machine/Port.lean ====
section
/-! DEFINITION. The command port (spec/30_encoding.md R85, spec/20_memory.md R74): the block has no program counter
and fetches nothing (spec/10_state.md R33); the next command word is the one the host presents. -/

namespace Sys2Proof.Machine

/-- The state with the words the host has still to present replaced. -/
def State.withStream (s : State) (ws : List Byte) : State := { s with cmdIn := ws }

/-- The state with both ports' contents replaced; the block's own state is untouched. -/
def State.withPorts (s : State) (ws : List Byte) (a : Option (BitVec 16)) : State :=
  { s with cmdIn := ws, rsp := a }

/-- The word on the command port, and the state with that word taken from the host's stream; `none` while the host
presents nothing. -/
def takeCommand (s : State) : Option (Byte × State) :=
  match s.cmdIn with
  | [] => none
  | w :: rest => some (w, s.withStream rest)

/-- An illegal word: `IllegalCommand`, response `0x9000`, no other change (R91, R237). -/
def refuseWord (s : State) : State := s.raise .illegalCommand

/-- The host presents `w` before the words it has still to present. -/
def presentWord (w : Byte) (s : State) : State := s.withStream (w :: s.cmdIn)

end Sys2Proof.Machine
end

