-- ==== Sys2Proof/Machine/Step.lean ====
section
/-! DEFINITION. One step: one command in, one response out (spec/30_encoding.md R85). While the host presents
nothing the block waits and holds its state (spec/70_reset_and_hazards.md R262, spec/60_exceptions.md R253). -/

namespace Sys2Proof.Machine

/-- One step of the machine. -/
def step (s : State) : Host.Outcome State Fault Refusal :=
  match takeCommand s with
  | none => .next s
  | some (w, t) =>
    match decode w with
    | some i => exec i t
    | none => .next (refuseWord t)

/-- The host presents the command word whose bits are `w`, ahead of what it has still to present: the next step
runs it. -/
def State.withFetchWord (s : State) (nbits w : Nat) : State := presentWord (tableByte nbits w) s

end Sys2Proof.Machine
end

