-- ==== Sys2Proof/Machine/HostDriver.lean ====
section
/-! DEFINITION. What the host's side of the port computes from the spec's own tables: the selectors of the two
construction hints (spec/00_scope.md R8, spec/30_encoding.md R93) and the expansion of the pseudo-commands (R94,
R95). None of it is in the block. -/

namespace Sys2Proof.Machine

/-- `ss` for the requested block size in bytes; an absent hint gives the default (R93). -/
def storeSelector : Option Nat → BitVec 2
  | none => 2
  | some n => if 64 * 2 ^ 20 ≤ n then 3 else if 16 * 2 ^ 20 ≤ n then 2 else if 2 ^ 20 ≤ n then 1 else 0

/-- `ms` for the actual block size in bytes; an absent hint gives the default (R93). -/
def poolSelector : Option Nat → BitVec 2
  | none => 2
  | some n => if 8 * 2 ^ 20 ≤ n then 3 else if 4 * 2 ^ 20 ≤ n then 2 else if 2 ^ 20 ≤ n then 1 else 0

/-- `BYTE v`: `UPD v[7]`, …, `UPD v[0]` (R95, R67). -/
def byteCommands (v : Byte) : List Instr :=
  [7, 6, 5, 4, 3, 2, 1, 0].map fun i : Nat => .upd (v.extractLsb' i 1)

/-- The commands a line stands for (R95). -/
def expandLine : AsmLine → List Instr
  | .command i => [i]
  | .byte v => byteCommands v
  | .bytes vs => vs.flatMap byteCommands
  | .reset => [.init 2 2]

/-- A command as the spec's programs write it (R94). -/
def commandText : Instr → String
  | .prob => "PROB"
  | .upd y => "UPD " ++ toString y.toNat
  | .init ss ms => "INIT " ++ toString ss.toNat ++ ", " ++ toString ms.toNat

end Sys2Proof.Machine
end

