-- ==== Sys2Proof/Machine/Tables.lean ====
section
/-! DEFINITION. The defaults the spec supplies for four of the open parameters: `SQUASH` (spec/44_mixer.md R201),
`STRETCH` (R203), `HASH_CONST` (spec/42_context_hasher.md R155) and `HSTEP` (R160). The machine does not run on
them (`Config.rom` is free); a statement that instantiates them says so. There is no default for `T` and `M_k`
(spec/92_eei_decisions.md D15). -/

namespace Sys2Proof.Machine

/-- The 33 knots of the default `SQUASH` (R201). -/
def squashKnots : List Nat :=
  [1, 2, 3, 6, 10, 16, 27, 45, 73, 120, 194, 310, 488, 747, 1101, 1546, 2047] ++
  [2549, 2994, 3348, 3607, 3785, 3901, 3975, 4024, 4050, 4068, 4079, 4085, 4089, 4092, 4093, 4094]

/-- `SQT[i]` as an `i32`. -/
def squashKnot (i : Word) : Word := BitVec.ofNat 32 (squashKnots.getD i.toNat 0)

/-- The default `SQUASH(d)` (R201). -/
def squashDefault (d : Word) : Prob :=
  if (2047#32).slt d then 4095
  else if d.slt (-2047#32) then 0
  else
    let w := d &&& 127
    let i := asr d 7 + 16
    (asr (squashKnot i * (128 - w) + squashKnot (i + 1) * w + 64) 7).setWidth 12

/-- The first `x` from `x₀` on, at most `fuel` steps ahead, with `SQUASH(x) ≥ p`. -/
def firstReaching (p : Prob) : Nat → Word → Word
  | 0, x => x
  | fuel + 1, x => if p ≤ squashDefault x then x else firstReaching p fuel (x + 1)

/-- The default `STRETCH[p]`: the smallest `x ∈ [−2047, 2047]` with `SQUASH(x) ≥ p`, and 2047 for `p = 4095`
(R203). -/
def stretchDefault (p : Prob) : Word := firstReaching p 4094 (-2047#32)

/-- The default `HSTEP(h, c4) = (((h · 43707) << 4) + c4) & 0xFFFFFF` (R160). -/
def hstepDefault (h : Hash24) (c4 : Word) : Hash24 :=
  ((h.setWidth 32 * 43707) <<< 4 + c4).setWidth 24

/-- The ROM bank with every default the spec supplies, over given `T` and `M_0 … M_6` (R9, R10). -/
def romWithDefaults (transition : Bit → Byte → Byte) (stateMap : Fin 7 → Byte → Word) : Rom where
  transition := transition
  stateMap := stateMap
  squash := squashDefault
  stretch := stretchDefault
  hashConst := hashC
  hstep := hstepDefault

end Sys2Proof.Machine
end

