-- ==== Sys2Proof/Safety.lean ====
section
/-! DEFINITION. What a good state is, in the terms the statements use: the invariants the spec lists
(spec/10_state.md R46, R47; spec/20_memory.md R66; spec/43_lut_bank_match.md R178, R179; spec/44_mixer.md R200), one
structure per part of the machine, and running a list of commands. No step can fault (`Fault` is empty). -/

namespace Sys2Proof.Machine

/-- An `UPD` is accepted: it is not the bit that would complete byte number `2^31` (R124, R239). -/
def UpdAccepted (s : State) : Prop := ¬(s.bpos = 7 ∧ s.pos = 0x7FFFFFFF)

/-- The bit position `pos · 8 + bpos` (R33). -/
def State.bitCount (s : State) : Nat := s.pos.toNat * 8 + s.bpos.toNat

/-- The partial byte and the byte counters (R46, R27, R28). -/
structure CounterInv (s : State) : Prop where
  c0_pos : 1 ≤ s.c0.toNat
  c0_le : s.c0.toNat ≤ 255
  bpos_eq : s.bpos.toNat = Nat.log2 s.c0.toNat
  pos_lt : s.pos.toNat < 2 ^ 31
  binCount_le : s.binCount.toNat ≤ s.pos.toNat

/-- The index registers (R31, R32, R43, R66, R222): every pointer names its context's slot for the partial byte, or
slot 0 as reset leaves it; the active mixer is the one `c4` selects; the kept APM index is a column below the last of
the current context's row, or of row 0 as reset leaves it. -/
structure IndexInv (s : State) : Prop where
  pointer : ∀ k : Fin 7, s.cp[k] = slotIndex s.sl s.ctx[k] s.c0 ∨ s.cp[k] = 0
  mixer : s.mixIdx = mixerIndex s.ml s.c4
  apm_le : s.apmIdx.toNat ≤ 65535 * 33 + 31
  apm_col : s.apmIdx.toNat % 33 ≤ 31
  apm_row : s.apmIdx.toNat / 33 = 0 ∨ s.apmIdx.toNat / 33 = (apmContext s.c0 s.c4).toNat

/-- Every memory keeps its canonical form and its index range (R60, R66, R107). -/
structure MemoryInv (r : Rom) (s : State) : Prop where
  states : Store.wf zeroCell (2 ^ s.sl.log2) s.states
  buffer : Store.wf zeroCell bufferSize s.buffer
  hashes : Store.wf zeroCell hashEntries s.hashes
  mixers : Store.wf mixerReset (2 ^ s.ml.log2) s.mixers
  apm : Store.wf (apmReset r) apmCells s.apm

/-- The match state and the hash table (R29, R178, R179, R185): the length is capped; a live match lies behind the
current position and agrees with the bits of the current byte; an entry is a position already passed. -/
structure MatchInv (s : State) : Prop where
  len_le : s.matchLen.toNat ≤ maxLen
  behind : 0 < s.matchLen.toNat → s.matchPos.toNat < s.pos.toNat
  agrees : 0 < s.matchLen.toNat → matchAgrees s = true
  entry_le : ∀ i, (s.hashEntry i).toNat ≤ s.pos.toNat

/-- `c8 ‖ c4` is the last eight bytes of the stream, as the ring buffer holds them, and zero before its start
(R24, R25, R68, R112). -/
def HistoryInv (s : State) : Prop :=
  ∀ i < 8, (s.c8 ++ s.c4).extractLsb' (8 * i) 8 =
    if i < s.pos.toNat then s.bufferByte ((s.pos.toNat - 1 - i) % bufferSize) else 0

/-- The context bases are those of the last byte boundary, or zero before the first (R30, R152). -/
def ContextInv (r : Rom) (s : State) : Prop :=
  (s.pos = 0 ∧ ∀ k : Fin 7, s.ctx[k] = 0) ∨ ∀ k : Fin 7, s.ctx[k] = contextBase r s k

/-- Every learning rate lies between its end and its start value (R200). -/
def RateInv (s : State) : Prop :=
  ∀ j, endRate.toNat ≤ (s.mixer j).learnRate.toNat ∧ (s.mixer j).learnRate.toNat ≤ beginRate.toNat

/-- Every slot holds a state that some bits produce from the virgin state (R131). -/
def SlotInv (r : Rom) (s : State) : Prop := ∀ i, r.ReachableState (s.slot i)

/-- A good state between commands. -/
structure State.Inv (r : Rom) (s : State) : Prop where
  counter : CounterInv s
  index : IndexInv s
  memory : MemoryInv r s
  matching : MatchInv s
  history : HistoryInv s
  context : ContextInv r s
  rate : RateInv s
  slots : SlotInv r s

/-- `n` steps of the machine, stopping at the first stop; `Host.Core.run` on `core` (Laws/Upd.lean `run_core`). -/
def steps : Nat → State → Host.Outcome State Fault Refusal
  | 0, s => .next s
  | n + 1, s =>
    match step s with
    | .next t => steps n t
    | .fault f => .fault f
    | .refused q => .refused q

/-- Executing a list of commands, one after the other, stopping at the first stop (R74, R105). -/
def execAll : List Instr → State → Host.Outcome State Fault Refusal
  | [], s => .next s
  | i :: is, s =>
    match exec i s with
    | .next t => execAll is t
    | .fault f => .fault f
    | .refused q => .refused q

end Sys2Proof.Machine
end

