-- ==== Sys2Proof/Certificates/Slice0/Obligations.lean ====
section
/-! DEFINITION. The statements for the provers, from the numbered rules of spec/. The machine runs on `Config.rom`,
whose tables are free, so a statement about it holds for every table; a statement that instantiates the spec's
defaults or quantifies over a ROM bank says so. -/

open Sys2Proof Sys2Proof.Machine

/-! ### Encoding -/

/-- R88 to R90, R96: decoding an encoded command gives it back, with every operand value. -/
def Obligations.DecodeOfEncodeIsTheCommand : Prop :=
  ∀ i : Instr, i.WellFormed = true → decode (encode i) = some i

/-- R96, R91: a word the decoder reads is the word of what it reads, so each command has one word. -/
def Obligations.EncodeOfDecodeIsTheWord : Prop :=
  ∀ (w : Byte) (i : Instr), decode w = some i → encode i = w

/-- R91: the decoder refuses exactly the words that match no row; 19 words are legal and 237 are not. -/
def Obligations.DecoderRefusesExactlyIllegalWords : Prop :=
  (∀ w : Byte, decode w = none ↔ legalWord w = false) ∧
  ((List.range 256).countP fun n => (decode (BitVec.ofNat 8 n)).isSome) = 19 ∧
  ((List.range 256).countP fun n => (decode (BitVec.ofNat 8 n)).isNone) = 237

/-- R88, R89, R90: words written out from the encoding tables decode to the commands they stand for. -/
def Obligations.WrittenOutWordsDecode : Prop :=
  decode 0b00000000#8 = some .prob ∧
  decode 0b01000000#8 = some (.upd 0) ∧
  decode 0b01000001#8 = some (.upd 1) ∧
  decode 0b10000100#8 = some (.init 0 1) ∧
  decode 0b10010000#8 = some (.init 1 0) ∧
  decode 0b10101000#8 = some (.init 2 2) ∧
  decode 0b10111100#8 = some (.init 3 3)

/-- R74, R96, R105: the machine executes an encoded command stream, whatever the commands and however many, exactly
command by command. -/
def Obligations.CommandStreamRunsAsEncoded : Prop :=
  ∀ (is : List Instr) (rest : List Byte) (s : State),
    steps is.length (s.withStream (is.map encode ++ rest)) =
      execAll is (s.withStream rest)

/-! ### Steps and refused words -/

/-- R85, R96: when the presented word decodes, the step takes it from the port and is exec of the decoded command. -/
def Obligations.StepRunsTheDecodedCommand : Prop :=
  ∀ (s : State) (w : Byte) (rest : List Byte) (i : Instr),
    s.cmdIn = w :: rest → decode w = some i → i.WellFormed = true →
      step s = exec i (s.withStream rest)

/-- R237: a word that matches no row answers `0x9000` and changes nothing but the port; whether a word does is decided
by the word alone, and 237 of the 256 words do. -/
def Obligations.StepRefusesIllegalWord : Prop :=
  (∀ (s : State) (w : Byte) (rest : List Byte), s.cmdIn = w :: rest → legalWord w = false →
    step s = .next { s with cmdIn := rest, rsp := some 0x9000 }) ∧
  (∀ (s : State) (w : Byte) (rest : List Byte) (t : State), s.cmdIn = w :: rest → step s = .next t →
    t.rsp = some 0x9000 → legalWord w = false) ∧
  ((List.range 256).countP fun n => !legalWord (BitVec.ofNat 8 n)) = 237

/-- R262, R253: with no command presented the block waits and holds its state (the model's choice of what a step is
then: log entry 4). -/
def Obligations.StepWaitsWithoutCommand : Prop :=
  ∀ s : State, s.cmdIn = [] → step s = .next s

/-- R236: any run of illegal words leaves no trace but its last response, and the next command is accepted. -/
def Obligations.IllegalWordsLeaveNoTrace : Prop :=
  ∀ (ws rest : List Byte) (s : State), ws ≠ [] → (∀ w ∈ ws, legalWord w = false) →
    steps ws.length (s.withStream (ws ++ rest)) =
      .next { s with cmdIn := rest, rsp := some 0x9000 }

/-- R126: what a command does depends on the block's state and the command alone, not on the words still to come or
on the last response, and it leaves the words to come as they are. -/
def Obligations.CommandsIgnoreThePorts : Prop :=
  ∀ (i : Instr) (s t : State) (ws : List Byte) (a : Option (BitVec 16)),
    exec i s = .next t → exec i { s with cmdIn := ws, rsp := a } = .next { t with cmdIn := ws }

/-! ### PROB -/

/-- R108: `PROB` completes from every state; its response holds `pr`, and nothing else changes, so any number of `PROB`
commands in a row answer alike; right after reset the answer is 2048. -/
def Obligations.ProbRespondsWithStoredPrediction : Prop :=
  (∀ s : State, exec .prob s = .next { s with rsp := some (0#4 ++ s.pr) }) ∧
  (∀ (n : Nat) (s : State), execAll (List.replicate (n + 1) .prob) s = .next { s with rsp := some (0#4 ++ s.pr) }) ∧
  exec .prob State.reset = .next { State.reset with rsp := some 0x0800 }

/-- R108, R265: any number of `PROB` commands before an `UPD` leaves the outcome of that `UPD` as it was. -/
def Obligations.ProbsBeforeUpdHaveNoEffect : Prop :=
  ∀ (n : Nat) (y : Bit) (rest : List Byte) (s : State),
    steps (n + 1)
        (s.withStream (List.replicate n 0x00#8 ++ (0x40#8 ||| y.setWidth 8) :: rest)) =
      step (s.withStream ((0x40#8 ||| y.setWidth 8) :: rest))

/-! ### INIT -/

/-- R106, R49, R90: `INIT` completes from every state, answers `0x0000`, and puts every register and selector at its
reset value and every memory at its reset contents (no element listed). -/
def Obligations.InitPutsEveryFieldAtItsResetValue : Prop :=
  ∀ (ss ms : BitVec 2) (s : State), ∃ t, exec (.init ss ms) s = .next t ∧
    t.sl = (if ss = 0 then .sl26 else if ss = 1 then .sl27 else if ss = 2 then .sl28 else .sl29) ∧
    t.ml = (if ms = 0 then .ml9 else if ms = 1 then .ml10 else if ms = 2 then .ml12 else .ml14) ∧
    t.pr = 2048 ∧ t.c0 = 1 ∧ t.bpos = 0 ∧ t.pos = 0 ∧ t.binCount = 0 ∧ t.c4 = 0 ∧ t.c8 = 0 ∧ t.h = 0 ∧
    t.matchLen = 0 ∧ t.matchPos = 0 ∧ (∀ k : Fin 7, t.ctx[k] = 0) ∧ (∀ k : Fin 7, t.cp[k] = 0) ∧
    t.mixIdx = 0 ∧ t.apmIdx = 0 ∧ t.rsp = some 0x0000 ∧ t.cmdIn = s.cmdIn ∧
    (∀ i, t.slot i = 0) ∧ (∀ i, t.bufferByte i = 0) ∧ (∀ i, t.hashEntry i = 0) ∧
    (∀ j, (∀ i : Fin 8, (t.mixer j).w[i] = 2048 ∧ (t.mixer j).p[i] = 0) ∧ (t.mixer j).skew = 0 ∧
      (t.mixer j).learnRate = 7680 ∧ (t.mixer j).pr = 2048) ∧
    (∀ c < 65536, ∀ j < 33, (t.apmCell Config.rom (c * 33 + j)).toNat =
      (Config.squash (BitVec.ofInt 32 (((j : Int) - 16) * 128))).toNat * 16)

/-- R106: nothing of the previous state survives an `INIT`; only the words the host has still to present remain. -/
def Obligations.InitForgetsThePreviousState : Prop :=
  ∀ (ss ms : BitVec 2) (s s' : State), s.cmdIn = s'.cmdIn → exec (.init ss ms) s = exec (.init ss ms) s'

/-- R260: power-on reset is the state `INIT 2, 2` makes (the ports apart: log entry 4). -/
def Obligations.PowerOnResetIsInitTwoTwo : Prop :=
  ∀ s : State, exec (.init 2 2) s = .next { State.reset with cmdIn := s.cmdIn, rsp := some 0x0000 }

/-- R8, R93, R90: the host driver's selector for a block size in bytes makes the block choose the size R8 gives. -/
def Obligations.HintsSelectTheTabledSizes : Prop :=
  (∀ n : Nat, (storeSizeOf (storeSelector (some n))).log2 =
    if 67108864 ≤ n then 29 else if 16777216 ≤ n then 28 else if 1048576 ≤ n then 27 else 26) ∧
  (∀ n : Nat, (poolSizeOf (poolSelector (some n))).log2 =
    if 8388608 ≤ n then 14 else if 4194304 ≤ n then 12 else if 1048576 ≤ n then 10 else 9) ∧
  (storeSizeOf (storeSelector none)).log2 = 28 ∧ (poolSizeOf (poolSelector none)).log2 = 12

/-! ### UPD: completion, refusal, frame -/

/-- R240: every `UPD` but the one of R239 completes, whatever the state and the bit, and answers `0x0000`; `PROB` always
completes; no command ends in a fault. -/
def Obligations.UpdCompletesWhenAccepted : Prop :=
  (∀ (y : Bit) (s : State), ¬(s.bpos = 7 ∧ s.pos = 0x7FFFFFFF) →
    ∃ t, exec (.upd y) s = .next t ∧ t.rsp = some 0x0000) ∧
  (∀ s : State, ∃ t, exec .prob s = .next t ∧ t.rsp = some (0#4 ++ s.pr)) ∧
  ∀ (i : Instr) (s : State) (f : Fault), exec i s ≠ .fault f

/-- R239: the bit that would complete byte number `2^31` is refused with `0xA000` and nothing changes; `PROB` goes on
returning the prediction for that bit, every further `UPD` is refused in the same way and an `INIT` is not; no other
command is ever refused so. -/
def Obligations.UpdOverrunIsRefused : Prop :=
  (∀ (y : Bit) (s : State), s.bpos = 7 → s.pos = 0x7FFFFFFF →
    exec (.upd y) s = .next { s with rsp := some 0xA000 } ∧
    exec .prob { s with rsp := some 0xA000 } = .next { s with rsp := some (0#4 ++ s.pr) } ∧
    (∀ z : Bit, exec (.upd z) { s with rsp := some 0xA000 } = .next { s with rsp := some 0xA000 }) ∧
    ∀ ss ms : BitVec 2, ∃ t, exec (.init ss ms) { s with rsp := some 0xA000 } = .next t ∧ UpdAccepted t) ∧
  ∀ (i : Instr) (s t : State), exec i s = .next t → t.rsp = some 0xA000 →
    (∃ y, i = .upd y) ∧ s.bpos = 7 ∧ s.pos = 0x7FFFFFFF

/-- The frame of an accepted `UPD` (R35, R37, R39 to R43, R73): the sizes and the words to come are unchanged; a slot
no pointer names, a buffer byte other than the one at `pos mod N`, a hash entry other than the one at the new `h`, a
mixer record other than the old and the new active one, and an APM cell other than the two at `apmIdx`, read as
before; a bit that completes no byte changes no buffer byte and no hash entry; and where the active record changes,
the old one keeps its cached inputs and output, the new one its weights, skew and rate. -/
def Obligations.UpdLeavesEverythingElse : Prop :=
  ∀ (y : Bit) (s : State), UpdAccepted s → ∃ t, exec (.upd y) s = .next t ∧
    t.sl = s.sl ∧ t.ml = s.ml ∧ t.cmdIn = s.cmdIn ∧
    (∀ i, (∀ k : Fin 7, s.cp[k].toNat ≠ i) → t.slot i = s.slot i) ∧
    (∀ i, s.c0.toNat < 128 ∨ i ≠ s.pos.toNat % 2 ^ 26 → t.bufferByte i = s.bufferByte i) ∧
    (∀ i, s.c0.toNat < 128 ∨ i ≠ t.h.toNat → t.hashEntry i = s.hashEntry i) ∧
    (∀ j, j ≠ s.mixIdx.toNat → j ≠ t.mixIdx.toNat → t.mixer j = s.mixer j) ∧
    (t.mixIdx ≠ s.mixIdx →
      (t.mixer s.mixIdx.toNat).p = (s.mixer s.mixIdx.toNat).p ∧
      (t.mixer s.mixIdx.toNat).pr = (s.mixer s.mixIdx.toNat).pr ∧
      (t.mixer t.mixIdx.toNat).w = (s.mixer t.mixIdx.toNat).w ∧
      (t.mixer t.mixIdx.toNat).skew = (s.mixer t.mixIdx.toNat).skew ∧
      (t.mixer t.mixIdx.toNat).learnRate = (s.mixer t.mixIdx.toNat).learnRate) ∧
    (∀ i, i ≠ s.apmIdx.toNat → i ≠ s.apmIdx.toNat + 1 →
      t.apmCell Config.rom i = s.apmCell Config.rom i)

/-- R125, which the spec marks as derived from R109 to R122: the worked example of the one command `UPD 1` at the one
state `State.reset`, for every ROM bank (the machine's among them), and its last clause for every `T` and every `M_k`
that maps the virgin state to 0, with the spec's default `SQUASH`, `STRETCH`, `HASH_CONST` and `HSTEP`. -/
def Obligations.FirstUpdateFollowsTheWorkedExample : Prop :=
  exec (.upd 1) State.reset = .next (updWith Config.rom 1 State.reset) ∧
  (∀ r : Rom, let t := updWith r 1 State.reset
    t.c0 = 3 ∧ t.bpos = 1 ∧ t.slot 0 = (r.transition 1)^[7] 0 ∧ (∀ k : Fin 7, t.cp[k] = 3) ∧ t.slot 3 = 0 ∧
    (t.mixer 0).skew = 122880 ∧ (t.mixer 0).learnRate = 7679 ∧ (∀ i : Fin 8, (t.mixer 0).w[i] = 2048) ∧
    (∀ k : Fin 7, (t.mixer 0).p[k.val] = r.stateMap k 0) ∧ (t.mixer 0).p[7] = 0 ∧
    ((∀ k : Fin 7, r.stateMap k 0 = 0) → (t.mixer 0).pr = r.squash 1)) ∧
  ∀ (transition : Bit → Byte → Byte) (stateMap : Fin 7 → Byte → Word), (∀ k : Fin 7, stateMap k 0 = 0) →
    ((updWith (romWithDefaults transition stateMap) 1 State.reset).mixer 0).pr = 2051 ∧
    (updWith (romWithDefaults transition stateMap) 1 State.reset).pr = 2050

/-! ### UPD: steps 2 and 3 -/

/-- R110, R111: a bit that completes no byte is folded into `c0` and counted in `bpos`; the byte registers, the
contexts, the counters, the active mixer, `matchPos`, the buffer and the hash table stay. -/
def Obligations.UpdFoldsTheBitInsideAByte : Prop :=
  ∀ (y : Bit) (s : State), UpdAccepted s → s.c0.toNat ≤ 127 → ∃ t, exec (.upd y) s = .next t ∧
    t.c0.toNat = 2 * s.c0.toNat + y.toNat ∧ t.bpos = s.bpos + 1 ∧
    t.pos = s.pos ∧ t.c4 = s.c4 ∧ t.c8 = s.c8 ∧ t.h = s.h ∧ t.binCount = s.binCount ∧ t.ctx = s.ctx ∧
    t.mixIdx = s.mixIdx ∧ t.matchPos = s.matchPos ∧ t.buffer = s.buffer ∧ t.hashes = s.hashes

/-- R111 to R114, R146, R147, R160: the bit that completes a byte. The byte `B` is the low eight bits of the folded
`c0`; `c0` and `bpos` restart, `pos` counts it, `c8` and `c4` shift it in, `h` steps on the new `c4`, `binCount` takes
its top bit, and the active mixer is the one the new `c4` selects. -/
def Obligations.UpdCompletesAByte : Prop :=
  ∀ (y : Bit) (s : State), UpdAccepted s → 128 ≤ s.c0.toNat → s.c0.toNat ≤ 255 →
    ∃ t, exec (.upd y) s = .next t ∧
    let b : Nat := (2 * s.c0.toNat + y.toNat) % 256
    t.c0 = 1 ∧ t.bpos = 0 ∧ t.pos = s.pos + 1 ∧
    t.c4 = BitVec.ofNat 32 (s.c4.toNat * 256 + b) ∧
    t.c8 = BitVec.ofNat 32 (s.c8.toNat * 256 + s.c4.toNat / 2 ^ 24) ∧
    t.h = Config.hstep s.h t.c4 ∧
    t.binCount = (if 128 ≤ b then s.binCount + 1 else s.binCount) ∧
    t.mixIdx.toNat = t.c4.toNat % 2 ^ s.ml.log2 ∧
    t.bufferByte (s.pos.toNat % 2 ^ 26) = BitVec.ofNat 8 b

/-- R148 to R158: at a byte boundary all seven context bases are recomputed from the new `c4`, `c8`, `binCount` and
`pos`, by the formulas of the mode, of `hashTPAQ` and of `addContext`, written out. -/
def Obligations.UpdRecomputesTheContexts : Prop :=
  ∀ (y : Bit) (s : State), UpdAccepted s → 128 ≤ s.c0.toNat → s.c0.toNat ≤ 255 →
    ∃ t, exec (.upd y) s = .next t ∧
    let hash : Word → Word → Word := fun x z =>
      let g := x * 200002979#32 ^^^ z * 200002979#32
      g.sshiftRight 1 ^^^ g.sshiftRight 9 ^^^ x.sshiftRight 2 ^^^ z.sshiftRight 3 ^^^ 200002979#32
    let base : Nat → Word → Word := fun id v =>
      (v * 987654323#32 + BitVec.ofNat 32 id).rotateLeft 16 * 123456791#32 + BitVec.ofNat 32 id
    let text : Prop := t.binCount.toInt < t.pos.toInt / 4
    let h1 : Word := if t.binCount.toInt < t.pos.toInt / 4 ∧ t.c4 &&& 0x80808080 = 0 then t.c4 else t.c4.sshiftRight 16
    let h2 : Word := if t.binCount.toInt < t.pos.toInt / 4 ∧ t.c8 &&& 0x80808080 = 0 then t.c8 else t.c8.sshiftRight 16
    (text → t.ctx[0] = base 0 (t.c4 ^^^ (t.c8 &&& 0xFFFF))) ∧
    (¬text → t.ctx[0] = base 0 (t.c4 &&& 0xFFFF0000)) ∧
    t.ctx[1] = base 1 (hash Config.hashConst (t.c4 <<< 24)) ∧
    t.ctx[2] = base 2 (hash Config.hashConst (t.c4 <<< 16)) ∧
    t.ctx[3] = base 3 (hash Config.hashConst (t.c4 <<< 8)) ∧
    t.ctx[4] = base 4 (hash Config.hashConst (t.c4 &&& 0xF0F0F0F0)) ∧
    t.ctx[5] = base 5 (hash Config.hashConst t.c4) ∧
    t.ctx[6] = base 6 (hash h1 h2)

/-- R67, R95, R111, R112, R146: the eight commands of `BYTE v`, given at a byte boundary that has room for one more
byte, deliver `v` most significant bit first: `v` is stored at `pos mod N` and nowhere else, and enters `c4`. -/
def Obligations.ByteArrivesMostSignificantBitFirst : Prop :=
  ∀ (v : Byte) (rest : List Byte) (s : State), s.c0 = 1 → s.bpos = 0 → s.pos ≠ 0x7FFFFFFF →
    ∃ t, steps 8 (s.withStream ((byteCommands v).map encode ++ rest)) = .next t ∧
      t.cmdIn = rest ∧ t.c0 = 1 ∧ t.bpos = 0 ∧ t.pos = s.pos + 1 ∧
      t.c4.toNat = (s.c4.toNat * 256 + v.toNat) % 2 ^ 32 ∧
      t.bufferByte (s.pos.toNat % 2 ^ 26) = v ∧
      ∀ i, i ≠ s.pos.toNat % 2 ^ 26 → t.bufferByte i = s.bufferByte i

/-! ### UPD: the match model -/

/-- R182: at a byte boundary the hash table takes the new position at the new `h`. -/
def Obligations.UpdRecordsThePosition : Prop :=
  ∀ (y : Bit) (s : State), UpdAccepted s → 128 ≤ s.c0.toNat → s.c0.toNat ≤ 255 →
    ∃ t, exec (.upd y) s = .next t ∧ t.hashEntry t.h.toNat = t.pos

/-- R178, R186: a match alive at a byte boundary is extended by one, capped at 88, `matchPos` advances by one, and no
match is killed on the first bit of a byte. -/
def Obligations.UpdExtendsALiveMatch : Prop :=
  ∀ (y : Bit) (s : State), UpdAccepted s → 128 ≤ s.c0.toNat → s.c0.toNat ≤ 255 →
    0 < s.matchLen.toNat → s.matchLen.toNat ≤ 88 →
    ∃ t, exec (.upd y) s = .next t ∧
      t.matchLen.toNat = min (s.matchLen.toNat + 1) 88 ∧ t.matchPos = s.matchPos + 1

/-- R179, R180, R181: with no match alive, a byte boundary looks up the candidate `p` stored at the new `h` before this
command; if `p ≠ 0` and it is less than `N` back, the new length is the number of bytes before the two positions that
agree, at most 88, and `matchPos` is `p`; otherwise both registers stay. -/
def Obligations.UpdLooksUpAMatch : Prop :=
  ∀ (y : Bit) (s : State), UpdAccepted s → 128 ≤ s.c0.toNat → s.c0.toNat ≤ 255 → s.matchLen = 0 →
    ∃ t, exec (.upd y) s = .next t ∧
    let p : Word := s.hashEntry t.h.toNat
    let same : Nat → Prop := fun d =>
      t.bufferByte (((t.pos.toInt - d) % 2 ^ 26).toNat) = t.bufferByte (((p.toInt - d) % 2 ^ 26).toNat)
    (p ≠ 0 ∧ (t.pos - p).toInt ≤ 2 ^ 26 - 1 →
      t.matchPos = p ∧ t.matchLen.toNat ≤ 88 ∧
      (∀ d, 1 ≤ d → d ≤ t.matchLen.toNat → same d) ∧
      (t.matchLen.toNat < 88 → ¬same (t.matchLen.toNat + 1))) ∧
    (¬(p ≠ 0 ∧ (t.pos - p).toInt ≤ 2 ^ 26 - 1) → t.matchPos = s.matchPos ∧ t.matchLen = 0)

/-- R185, R186: inside a byte a match lives on exactly if the bits received so far, with their sentinel, are the
leading bits of the expected byte with a sentinel above them; else it is killed, and `matchPos` is left as it was. -/
def Obligations.UpdKillsADisagreeingMatch : Prop :=
  ∀ (y : Bit) (s : State), UpdAccepted s → s.c0.toNat ≤ 127 → s.bpos.toNat ≤ 6 →
    ∃ t, exec (.upd y) s = .next t ∧ t.matchPos = s.matchPos ∧
      t.matchLen =
        (if ((s.bufferByte (s.matchPos.toNat % 2 ^ 26)).toNat + 256) / 2 ^ (8 - t.bpos.toNat) = t.c0.toNat
          then s.matchLen else 0)

/-- R185, R187: the eighth input of the active record after an accepted `UPD` is 0 with no match alive, and else
`64 · L` with the sign of the bit expected next, `L` growing with the match length. -/
def Obligations.UpdGathersTheMatchInput : Prop :=
  ∀ (y : Bit) (s : State), UpdAccepted s → ∃ t, exec (.upd y) s = .next t ∧
    let n := t.matchLen.toNat
    let l : Int := if n ≤ 24 then n else 24 + (n - 24) / 8
    let bit := (t.bufferByte (t.matchPos.toNat % 2 ^ 26)).toNat / 2 ^ (7 - t.bpos.toNat) % 2
    (t.mixer t.mixIdx.toNat).p[7].toInt = if n = 0 then 0 else if bit = 0 then -(64 * l) else 64 * l

/-- R186: the eighth bit of a byte is never tested against a match: a match can be extended over a byte that differs
from the expected one in bit 0 (the remark of R178 that they are equal does not hold there: log entry 8). -/
def Obligations.ExtendedMatchMayMissTheLastBit : Prop :=
  ∃ (y : Bit) (s t : State), CounterInv s ∧ MatchInv s ∧ UpdAccepted s ∧ 128 ≤ s.c0.toNat ∧
    exec (.upd y) s = .next t ∧ 0 < s.matchLen.toNat ∧ t.matchLen.toNat = s.matchLen.toNat + 1 ∧
    t.bufferByte (modN (t.matchPos - 1)) ≠ t.bufferByte (modN (t.pos - 1))

/-- R185, R186: a match alive when a byte is completed agrees with that byte in every bit but perhaps bit 0. -/
def Obligations.ExtendedMatchAgreesOnSevenBits : Prop :=
  ∀ (y : Bit) (s : State), UpdAccepted s → CounterInv s → MatchInv s → 128 ≤ s.c0.toNat →
    0 < s.matchLen.toNat →
    (s.bufferByte (modN s.matchPos)).toNat / 2 = (2 * s.c0.toNat + y.toNat) % 256 / 2

/-- R187: the strength of a match, over the whole range of its length: 64 to 2048, and 0 never. -/
def Obligations.MatchStrengthTable : Prop :=
  ∀ n : BitVec 7, 1 ≤ n.toNat → n.toNat ≤ 88 →
    (matchStrength n).toNat = (if n.toNat ≤ 24 then n.toNat else 24 + (n.toNat - 24) / 8) ∧
    64 ≤ (matchStrength n * 64).toNat ∧ (matchStrength n * 64).toNat ≤ 2048

/-! ### UPD: step 4 -/

/-- R132, R133: each slot is advanced by the observed bit once for every pointer that named it on entry: `m` pointers
on one slot apply `T[y]` to it `m` times, and a slot no pointer named keeps its state. -/
def Obligations.UpdAdvancesEachSlotOncePerPointer : Prop :=
  ∀ (y : Bit) (s : State), UpdAccepted s → ∃ t, exec (.upd y) s = .next t ∧
    ∀ i, t.slot i =
      (Config.transition y)^[(List.finRange 7).countP fun k : Fin 7 => s.cp[k].toNat == i] (s.slot i)

/-- R134, R63: every pointer is re-aimed at the low `SL` bits of its context base plus the new partial byte. -/
def Obligations.UpdAimsThePointers : Prop :=
  ∀ (y : Bit) (s : State), UpdAccepted s → ∃ t, exec (.upd y) s = .next t ∧
    ∀ k : Fin 7, t.cp[k].toNat = (t.ctx[k].toNat + t.c0.toNat) % 2 ^ t.sl.log2

/-- R135: moving each pointer right after its slot is advanced, or all pointers after all slots, is the same. -/
def Obligations.NextAndMoveMayBeSplit : Prop :=
  ∀ (r : Rom) (y : Bit) (s : State),
    advanceHistories r y s =
      lanes.foldl (fun t k => movePointer k t) (lanes.foldl (fun t k => nextHistory r y k t) s)

/-- R131, R47: for a table closed on `[0, 252]`, an `UPD` keeps every slot in `[0, 252]`, whatever the other tables. -/
def Obligations.UpdKeepsSlotStatesInRange : Prop :=
  ∀ (r : Rom) (y : Bit) (s : State), (∀ b v, v ≤ 252 → r.transition b v ≤ 252) →
    (∀ i, s.slot i ≤ 252) → ∀ i, (updWith r y s).slot i ≤ 252

/-! ### UPD: steps 5, 6 and 1 -/

/-- R172, R118: the first seven inputs of the active record are the state maps of the states the re-aimed pointers
name. -/
def Obligations.UpdGathersTheStateMaps : Prop :=
  ∀ (y : Bit) (s : State), UpdAccepted s → ∃ t, exec (.upd y) s = .next t ∧
    ∀ k : Fin 7, (t.mixer t.mixIdx.toNat).p[k.val] = Config.stateMap k (t.slot t.cp[k].toNat)

/-- R196: the output of the active record is `SQUASH` of the rounded, shifted dot product of its weights and inputs
plus its skew, all wrapping at 32 bits. -/
def Obligations.UpdMixesTheInputs : Prop :=
  ∀ (y : Bit) (s : State), UpdAccepted s → ∃ t, exec (.upd y) s = .next t ∧
    let m := t.mixer t.mixIdx.toNat
    m.pr = Config.squash (((∑ i : Fin 8, m.w[i] * m.p[i]) + m.skew + 65536#32).sshiftRight 17)

/-- R198, R209: step 1 trains the record that was active on entry with the observed bit, on the inputs, output and rate
it held; a zero error writes nothing. -/
def Obligations.UpdTrainsTheActiveMixer : Prop :=
  ∀ (y : Bit) (s : State), UpdAccepted s → ∃ t, exec (.upd y) s = .next t ∧
    let m := s.mixer s.mixIdx.toNat
    let n := t.mixer s.mixIdx.toNat
    let e : Word := y.setWidth 32 <<< 12 - m.pr.setWidth 32
    let d : Word := (e * m.learnRate).sshiftRight 7
    (e = 0 → n.w = m.w ∧ n.skew = m.skew ∧ n.learnRate = m.learnRate) ∧
    (e ≠ 0 → n.skew = m.skew + d ∧ n.learnRate = m.learnRate + (1792#32 - m.learnRate).sshiftRight 31 ∧
      ∀ i : Fin 8, n.w[i] = m.w[i] + (m.p[i] * d).sshiftRight 15)

/-- R205, R210: with a learning rate up to its start value nothing wraps in the scaled error: it is the exact quotient
rounded down, at most 245760 in magnitude, and it has the sign of the raw error. -/
def Obligations.ScaledErrorNeverWraps : Prop :=
  ∀ (y : Bit) (m : Mixer), 1792 ≤ m.learnRate.toNat → m.learnRate.toNat ≤ 7680 →
    let e : Int := 4096 * y.toNat - m.pr.toNat
    (m.scaledError y).toInt = (e * m.learnRate.toNat) / 128 ∧
    -245760 ≤ (m.scaledError y).toInt ∧ (m.scaledError y).toInt ≤ 245760 ∧
    (0 < e → 0 < (m.scaledError y).toInt) ∧ (e < 0 → (m.scaledError y).toInt < 0)

/-- R200, R209: an update with a non-zero error lowers a rate above 1792 by one and leaves 1792 where it is; the error
is zero only for the bit 0 and a cached output of 0. -/
def Obligations.LearningRateDecaysByOne : Prop :=
  ∀ (y : Bit) (m : Mixer), 1792 ≤ m.learnRate.toNat → m.learnRate.toNat ≤ 7680 →
    (m.train y).learnRate.toNat =
      if y = 0 ∧ m.pr = 0 then m.learnRate.toNat else max 1792 (m.learnRate.toNat - 1)

/-! ### UPD: steps 7 and 8 -/

/-- R219: the two cells of the previous lookup move toward the observed bit by one 128th of the distance, rounded down
for a 1 and up for a 0, exactly: no 16-bit truncation occurs. -/
def Obligations.UpdTrainsTheTwoCells : Prop :=
  ∀ (y : Bit) (s : State), UpdAccepted s → ∃ t, exec (.upd y) s = .next t ∧
    ∀ i, i = s.apmIdx.toNat ∨ i = s.apmIdx.toNat + 1 →
      (t.apmCell Config.rom i).toNat =
        if y = 1 then (s.apmCell Config.rom i).toNat + (65536 - (s.apmCell Config.rom i).toNat) / 128
        else (s.apmCell Config.rom i).toNat - ((s.apmCell Config.rom i).toNat + 127) / 128

/-- R218, R220, R221, R225: the lookup goes to the cell pair of the new context that the stretched, clamped mixer
output selects, interpolates exactly, and the value stored in `pr` is the result, with 2047 replaced by 2046. -/
def Obligations.UpdRefinesTheMixerOutput : Prop :=
  ∀ (y : Bit) (s : State), UpdAccepted s → ∃ t, exec (.upd y) s = .next t ∧
    let x : Int := (Config.stretch (t.mixer t.mixIdx.toNat).pr).toInt
    let sx : Int := max (-2047) (min 2047 x)
    let w : Nat := (sx % 128).toNat
    let a : Nat := ((t.apmCell Config.rom t.apmIdx.toNat).toNat * (128 - w) +
      (t.apmCell Config.rom (t.apmIdx.toNat + 1)).toNat * w) / 2048
    t.apmIdx.toNat = (t.c0.setWidth 32 ||| (t.c4 &&& 0xFF00#32)).toNat * 33 + ((sx + 2048) / 128).toNat ∧
    t.pr.toNat = if a = 2047 then 2046 else a

/-- R226: the value 2047 is never stored by an `UPD`. -/
def Obligations.UpdNeverStoresTwentyFortySeven : Prop :=
  ∀ (y : Bit) (s : State), UpdAccepted s → ∃ t, exec (.upd y) s = .next t ∧ t.pr ≠ 2047

/-- R222: in a good state the pair an `UPD` trains and the pair it looks up are disjoint, so looking up before training
would store the same prediction. -/
def Obligations.TrainingAndLookupOrderIsUnobservable : Prop :=
  ∀ (y : Bit) (s : State), UpdAccepted s → CounterInv s → IndexInv s → ∃ t, exec (.upd y) s = .next t ∧
    (s.apmIdx.toNat + 1 < t.apmIdx.toNat ∨ t.apmIdx.toNat + 1 < s.apmIdx.toNat) ∧
    t.apmCell Config.rom t.apmIdx.toNat = s.apmCell Config.rom t.apmIdx.toNat ∧
    t.apmCell Config.rom (t.apmIdx.toNat + 1) = s.apmCell Config.rom (t.apmIdx.toNat + 1)

/-! ### Reset and invariants -/

/-- R49, R260: the power-on state is a good state. -/
def Obligations.ResetIsAGoodState : Prop := State.reset.Inv Config.rom

/-- R106: `INIT` makes a good state from any state. -/
def Obligations.InitMakesAGoodState : Prop :=
  ∀ (ss ms : BitVec 2) (s : State), ∃ t, exec (.init ss ms) s = .next t ∧ t.Inv Config.rom

/-- R46, R27, R28: every step keeps the partial byte, `bpos` and the byte counters in their relations. -/
def Obligations.StepKeepsTheCounters : Prop :=
  ∀ s t : State, CounterInv s → step s = .next t → CounterInv t

/-- R66, R107: every step keeps every memory in its canonical form and index range, and every index register where its
memory has an element. -/
def Obligations.StepKeepsMemoriesCanonical : Prop :=
  ∀ s t : State, IndexInv s → MemoryInv Config.rom s → step s = .next t →
    IndexInv t ∧ MemoryInv Config.rom t

/-- R29, R178, R179, R185: every step keeps the match length capped, a live match behind the current position and in
agreement with the bits received, and the hash entries at positions already passed. -/
def Obligations.StepKeepsTheMatchSound : Prop :=
  ∀ s t : State, CounterInv s → MatchInv s → step s = .next t → MatchInv t

/-- R24, R25, R68: every step keeps `c8 ‖ c4` equal to the last eight bytes in the ring buffer. -/
def Obligations.StepKeepsTheByteHistory : Prop :=
  ∀ s t : State, CounterInv s → HistoryInv s → step s = .next t → HistoryInv t

/-- R200: every step keeps every learning rate between 1792 and 7680. -/
def Obligations.StepKeepsTheLearningRates : Prop :=
  ∀ s t : State, RateInv s → step s = .next t → RateInv t

/-- R131, R47: every step keeps every slot at a state the transition table reaches from the virgin state, whatever the
table. -/
def Obligations.StepKeepsSlotsReachable : Prop :=
  ∀ s t : State, SlotInv Config.rom s → step s = .next t → SlotInv Config.rom t

/-- R46, R47, R66: from every good state, every number of steps, whatever words the host presents, gives a good
state. -/
def Obligations.RunsStayInGoodStates : Prop :=
  ∀ (n : Nat) (s t : State), s.Inv Config.rom → steps n s = .next t → t.Inv Config.rom

/-- R33, R47: a stream of `UPD` commands that fits in the position counter is accepted whole, and `pos · 8 + bpos`
counts its bits. -/
def Obligations.AcceptedBitsAreCounted : Prop :=
  ∀ (ys : List Bit) (rest : List Byte) (s : State), CounterInv s → s.bitCount + ys.length < 2 ^ 34 →
    ∃ t, steps ys.length
        (s.withStream (ys.map (fun y => 0x40#8 ||| y.setWidth 8) ++ rest)) = .next t ∧
      t.cmdIn = rest ∧ t.bitCount = s.bitCount + ys.length

/-- R107: canonical memories that read alike are equal, so equal memories are equal data. -/
def Obligations.CanonicalMemoriesThatReadAlikeAreEqual : Prop :=
  ∀ (α : Type) (dflt : Nat → α) (size : Nat) (m n : List (Nat × α)),
    Store.wf dflt size m → Store.wf dflt size n → (∀ i, Store.read dflt m i = Store.read dflt n i) → m = n

/-! ### The defaults the spec supplies -/

/-- R202, R201: the default `SQUASH` is non-decreasing over all of `i32`. -/
def Obligations.DefaultSquashIsMonotone : Prop :=
  ∀ d e : Word, d.toInt ≤ e.toInt → (squashDefault d).toNat ≤ (squashDefault e).toNat

/-- R203: the default `STRETCH[p]` is the smallest `x` in `[−2047, 2047]` with `SQUASH(x) ≥ p`, and 2047 for
`p = 4095`. It reaches `p` and need not hit it, so it is no exact inverse of `SQUASH`. -/
def Obligations.DefaultStretchIsTheSmallestArgumentReachingIt : Prop :=
  stretchDefault 4095 = 2047 ∧
  ∀ p : Prob, p.toNat ≤ 4094 →
    -2047 ≤ (stretchDefault p).toInt ∧ (stretchDefault p).toInt ≤ 2047 ∧
    p.toNat ≤ (squashDefault (stretchDefault p)).toNat ∧
    ∀ x : Int, -2047 ≤ x → x < (stretchDefault p).toInt → (squashDefault (BitVec.ofInt 32 x)).toNat < p.toNat

/-- R160: the default match hash forgets: after six bytes it depends on the last five in full and on the low four bits
of the sixth most recent, and on nothing older. -/
def Obligations.DefaultMatchHashForgets : Prop :=
  ∀ (h h' : Hash24) (c c' : Word) (b b' b1 b2 b3 b4 b5 : Byte), b &&& 15 = b' &&& 15 →
    let absorb : Hash24 × Word → Byte → Hash24 × Word := fun s v =>
      (hstepDefault s.1 (s.2 <<< 8 ||| v.setWidth 32), s.2 <<< 8 ||| v.setWidth 32)
    ([b, b1, b2, b3, b4, b5].foldl absorb (h, c)).1 = ([b', b1, b2, b3, b4, b5].foldl absorb (h', c')).1

/-- R151, R153, R154: corner values of the two hash functions the rules state, each in the rules' own operations:
`rot16` is the rotation by 16, and for an `id` of 1 to 6 the value at 0 is the one R153 writes with `id << 16`. -/
def Obligations.HashCornersAsStated : Prop :=
  (∀ x : Word, hashTPAQ x x = x.sshiftRight 2 ^^^ x.sshiftRight 3 ^^^ 200002979#32) ∧
  hashTPAQ 0 0 = 200002979#32 ∧
  addContext 0 0 = 0 ∧
  (∀ id : Word, 1 ≤ id.toNat → id.toNat ≤ 6 → addContext id 0 = (id <<< 16) * 123456791#32 + id) ∧
  (∀ id : Word, addContext id 0 = id.rotateLeft 16 * 123456791#32 + id) ∧
  (∀ t : Word, rot16 t = t.rotateLeft 16) ∧
  (∀ t : Word, rot16 (rot16 t) = t)
end

