-- ==== Sys2Proof/Laws/Store.lean ====
section
/-! SUPPORT. What a memory's read and write do, once: a write is read back, leaves every other index alone (for every
list, canonical or not) and keeps the canonical form (spec/20_memory.md R61, R72; spec/40_commands.md R107). -/

namespace Sys2Proof.Machine

variable {α : Type} {dflt : Nat → α}

@[simp] theorem Store.read_nil (i : Nat) : Store.read dflt [] i = dflt i := rfl

theorem Store.read_cons (j : Nat) (x : α) (m : List (Nat × α)) (i : Nat) :
    Store.read dflt ((j, x) :: m) i = if j = i then x else Store.read dflt m i := rfl

theorem Store.mem_erase {m : List (Nat × α)} {i : Nat} {e : Nat × α} :
    e ∈ Store.erase m i ↔ e ∈ m ∧ e.1 ≠ i := by
  simp [Store.erase]

theorem Store.mem_insert {i : Nat} {v : α} {m : List (Nat × α)} {e : Nat × α} :
    e ∈ Store.insert i v m ↔ e = (i, v) ∨ e ∈ m := by
  induction m with
  | nil => simp [Store.insert]
  | cons a m ih =>
    simp only [Store.insert]
    split <;> simp [ih]
    tauto

theorem Store.read_erase (m : List (Nat × α)) (i j : Nat) :
    Store.read dflt (Store.erase m i) j = if i = j then dflt j else Store.read dflt m j := by
  induction m with
  | nil => simp [Store.erase]
  | cons a m ih =>
    obtain ⟨k, x⟩ := a
    rw [Store.erase, List.filter_cons, ← Store.erase]
    by_cases hk : k = i
    · subst hk
      simp only [bne_self_eq_false, Bool.false_eq_true, if_false, ih, Store.read_cons]
      by_cases hj : k = j <;> simp [hj]
    · simp only [bne_iff_ne, ne_eq, hk, not_false_eq_true, if_true, Store.read_cons, ih]
      by_cases hj : k = j
      · subst hj; simp [Ne.symm hk]
      · simp [hj]

theorem Store.read_insert {m : List (Nat × α)} {i : Nat} (v : α) (j : Nat) (hi : ∀ e ∈ m, e.1 ≠ i) :
    Store.read dflt (Store.insert i v m) j = if i = j then v else Store.read dflt m j := by
  induction m with
  | nil => simp [Store.insert, Store.read_cons]
  | cons a m ih =>
    obtain ⟨k, x⟩ := a
    have hk : k ≠ i := hi (k, x) (by simp)
    have ih' := ih fun e he => hi e (by simp [he])
    simp only [Store.insert]
    split
    · simp [Store.read_cons]
    · simp only [Store.read_cons, ih']
      by_cases hj : k = j
      · subst hj; simp [Ne.symm hk]
      · simp [hj]

/-- A write is read back at its own index and nowhere else. -/
theorem Store.read_write [DecidableEq α] (m : List (Nat × α)) (i : Nat) (v : α) (j : Nat) :
    Store.read dflt (Store.write dflt m i v) j = if i = j then v else Store.read dflt m j := by
  unfold Store.write
  split
  · rename_i h
    rw [Store.read_erase]
    by_cases hj : i = j
    · subst hj; simp [h]
    · simp [hj]
  · rw [Store.read_insert _ _ fun e he => (Store.mem_erase.1 he).2, Store.read_erase]
    by_cases hj : i = j <;> simp [hj]

@[simp] theorem Store.read_write_same [DecidableEq α] (m : List (Nat × α)) (i : Nat) (v : α) :
    Store.read dflt (Store.write dflt m i v) i = v := by
  simp [Store.read_write]

theorem Store.read_write_of_ne [DecidableEq α] (m : List (Nat × α)) {i j : Nat} (v : α) (h : i ≠ j) :
    Store.read dflt (Store.write dflt m i v) j = Store.read dflt m j := by
  simp [Store.read_write, h]

theorem Store.pairwise_insert {m : List (Nat × α)} {i : Nat} (v : α)
    (hm : m.Pairwise fun a b => a.1 < b.1) (hi : ∀ e ∈ m, e.1 ≠ i) :
    (Store.insert i v m).Pairwise fun a b => a.1 < b.1 := by
  induction m with
  | nil => simp [Store.insert]
  | cons a m ih =>
    obtain ⟨ha, hm'⟩ := List.pairwise_cons.1 hm
    have hne : a.1 ≠ i := hi a (by simp)
    simp only [Store.insert]
    split
    · rename_i hlt
      refine List.pairwise_cons.2 ⟨?_, hm⟩
      intro e he
      rcases List.mem_cons.1 he with rfl | he
      · exact hlt
      · exact hlt.trans (ha e he)
    · rename_i hlt
      refine List.pairwise_cons.2 ⟨?_, ih hm' fun e he => hi e (by simp [he])⟩
      intro e he
      rcases Store.mem_insert.1 he with rfl | he
      · show a.1 < i
        omega
      · exact ha e he

/-- Every write in range keeps the canonical form. -/
theorem Store.wf_write [DecidableEq α] {size : Nat} {m : List (Nat × α)} {i : Nat} (v : α)
    (hm : Store.wf dflt size m) (hi : i < size) : Store.wf dflt size (Store.write dflt m i v) := by
  obtain ⟨hs, hr, hd⟩ := hm
  have hse : (Store.erase m i).Pairwise fun a b => a.1 < b.1 := hs.filter _
  unfold Store.write
  split
  · exact ⟨hse, fun e he => hr e (Store.mem_erase.1 he).1, fun e he => hd e (Store.mem_erase.1 he).1⟩
  · rename_i hv
    refine ⟨Store.pairwise_insert v hse fun e he => (Store.mem_erase.1 he).2, ?_, ?_⟩
    · intro e he
      rcases Store.mem_insert.1 he with rfl | he
      · exact hi
      · exact hr e (Store.mem_erase.1 he).1
    · intro e he
      rcases Store.mem_insert.1 he with rfl | he
      · exact hv
      · exact hd e (Store.mem_erase.1 he).1

/-- The empty list, every element at its reset value, is canonical. -/
theorem Store.wf_nil (size : Nat) : Store.wf dflt size [] :=
  ⟨.nil, nofun, nofun⟩

/-- A canonical memory lists exactly the indices whose element is not at its reset value. -/
theorem Store.mem_iff_read {size : Nat} {m : List (Nat × α)} (hm : Store.wf dflt size m) (i : Nat) :
    (∃ v, (i, v) ∈ m) ↔ Store.read dflt m i ≠ dflt i := by
  induction m with
  | nil => simp
  | cons a m ih =>
    obtain ⟨k, x⟩ := a
    obtain ⟨hs, hr, hd⟩ := hm
    obtain ⟨hk, hs'⟩ := List.pairwise_cons.1 hs
    have ih' := ih ⟨hs', fun e he => hr e (by simp [he]), fun e he => hd e (by simp [he])⟩
    by_cases hki : k = i
    · subst hki
      have hx : x ≠ dflt k := hd (k, x) (by simp)
      simp [Store.read_cons, hx]
    · rw [Store.read_cons, if_neg hki, ← ih']
      simp [Ne.symm hki]

end Sys2Proof.Machine
end

