-- ==== Sys2Proof/Laws/State.lean ====
section
/-! SUPPORT. Each field after each update of `State`, and each memory's read after each write: no later proof unfolds
a record update. -/

namespace Sys2Proof.Machine

variable (s : State)

@[simp] theorem State.setSlot_pr (i : Nat) (v : Byte) : (s.setSlot i v).pr = s.pr := (rfl)
@[simp] theorem State.setSlot_c0 (i : Nat) (v : Byte) : (s.setSlot i v).c0 = s.c0 := (rfl)
@[simp] theorem State.setSlot_bpos (i : Nat) (v : Byte) : (s.setSlot i v).bpos = s.bpos := (rfl)
@[simp] theorem State.setSlot_c4 (i : Nat) (v : Byte) : (s.setSlot i v).c4 = s.c4 := (rfl)
@[simp] theorem State.setSlot_c8 (i : Nat) (v : Byte) : (s.setSlot i v).c8 = s.c8 := (rfl)
@[simp] theorem State.setSlot_h (i : Nat) (v : Byte) : (s.setSlot i v).h = s.h := (rfl)
@[simp] theorem State.setSlot_pos (i : Nat) (v : Byte) : (s.setSlot i v).pos = s.pos := (rfl)
@[simp] theorem State.setSlot_binCount (i : Nat) (v : Byte) : (s.setSlot i v).binCount = s.binCount := (rfl)
@[simp] theorem State.setSlot_matchLen (i : Nat) (v : Byte) : (s.setSlot i v).matchLen = s.matchLen := (rfl)
@[simp] theorem State.setSlot_matchPos (i : Nat) (v : Byte) : (s.setSlot i v).matchPos = s.matchPos := (rfl)
@[simp] theorem State.setSlot_ctx (i : Nat) (v : Byte) : (s.setSlot i v).ctx = s.ctx := (rfl)
@[simp] theorem State.setSlot_cp (i : Nat) (v : Byte) : (s.setSlot i v).cp = s.cp := (rfl)
@[simp] theorem State.setSlot_mixIdx (i : Nat) (v : Byte) : (s.setSlot i v).mixIdx = s.mixIdx := (rfl)
@[simp] theorem State.setSlot_apmIdx (i : Nat) (v : Byte) : (s.setSlot i v).apmIdx = s.apmIdx := (rfl)
@[simp] theorem State.setSlot_sl (i : Nat) (v : Byte) : (s.setSlot i v).sl = s.sl := (rfl)
@[simp] theorem State.setSlot_ml (i : Nat) (v : Byte) : (s.setSlot i v).ml = s.ml := (rfl)
@[simp] theorem State.setSlot_mixers (i : Nat) (v : Byte) : (s.setSlot i v).mixers = s.mixers := (rfl)
@[simp] theorem State.setSlot_states (i : Nat) (v : Byte) : (s.setSlot i v).states = Store.write zeroCell s.states i v := (rfl)
@[simp] theorem State.setSlot_buffer (i : Nat) (v : Byte) : (s.setSlot i v).buffer = s.buffer := (rfl)
@[simp] theorem State.setSlot_hashes (i : Nat) (v : Byte) : (s.setSlot i v).hashes = s.hashes := (rfl)
@[simp] theorem State.setSlot_apm (i : Nat) (v : Byte) : (s.setSlot i v).apm = s.apm := (rfl)
@[simp] theorem State.setSlot_cmdIn (i : Nat) (v : Byte) : (s.setSlot i v).cmdIn = s.cmdIn := (rfl)
@[simp] theorem State.setSlot_rsp (i : Nat) (v : Byte) : (s.setSlot i v).rsp = s.rsp := (rfl)

@[simp] theorem State.setBufferByte_pr (i : Nat) (v : Byte) : (s.setBufferByte i v).pr = s.pr := (rfl)
@[simp] theorem State.setBufferByte_c0 (i : Nat) (v : Byte) : (s.setBufferByte i v).c0 = s.c0 := (rfl)
@[simp] theorem State.setBufferByte_bpos (i : Nat) (v : Byte) : (s.setBufferByte i v).bpos = s.bpos := (rfl)
@[simp] theorem State.setBufferByte_c4 (i : Nat) (v : Byte) : (s.setBufferByte i v).c4 = s.c4 := (rfl)
@[simp] theorem State.setBufferByte_c8 (i : Nat) (v : Byte) : (s.setBufferByte i v).c8 = s.c8 := (rfl)
@[simp] theorem State.setBufferByte_h (i : Nat) (v : Byte) : (s.setBufferByte i v).h = s.h := (rfl)
@[simp] theorem State.setBufferByte_pos (i : Nat) (v : Byte) : (s.setBufferByte i v).pos = s.pos := (rfl)
@[simp] theorem State.setBufferByte_binCount (i : Nat) (v : Byte) : (s.setBufferByte i v).binCount = s.binCount := (rfl)
@[simp] theorem State.setBufferByte_matchLen (i : Nat) (v : Byte) : (s.setBufferByte i v).matchLen = s.matchLen := (rfl)
@[simp] theorem State.setBufferByte_matchPos (i : Nat) (v : Byte) : (s.setBufferByte i v).matchPos = s.matchPos := (rfl)
@[simp] theorem State.setBufferByte_ctx (i : Nat) (v : Byte) : (s.setBufferByte i v).ctx = s.ctx := (rfl)
@[simp] theorem State.setBufferByte_cp (i : Nat) (v : Byte) : (s.setBufferByte i v).cp = s.cp := (rfl)
@[simp] theorem State.setBufferByte_mixIdx (i : Nat) (v : Byte) : (s.setBufferByte i v).mixIdx = s.mixIdx := (rfl)
@[simp] theorem State.setBufferByte_apmIdx (i : Nat) (v : Byte) : (s.setBufferByte i v).apmIdx = s.apmIdx := (rfl)
@[simp] theorem State.setBufferByte_sl (i : Nat) (v : Byte) : (s.setBufferByte i v).sl = s.sl := (rfl)
@[simp] theorem State.setBufferByte_ml (i : Nat) (v : Byte) : (s.setBufferByte i v).ml = s.ml := (rfl)
@[simp] theorem State.setBufferByte_mixers (i : Nat) (v : Byte) : (s.setBufferByte i v).mixers = s.mixers := (rfl)
@[simp] theorem State.setBufferByte_states (i : Nat) (v : Byte) : (s.setBufferByte i v).states = s.states := (rfl)
@[simp] theorem State.setBufferByte_buffer (i : Nat) (v : Byte) : (s.setBufferByte i v).buffer = Store.write zeroCell s.buffer i v := (rfl)
@[simp] theorem State.setBufferByte_hashes (i : Nat) (v : Byte) : (s.setBufferByte i v).hashes = s.hashes := (rfl)
@[simp] theorem State.setBufferByte_apm (i : Nat) (v : Byte) : (s.setBufferByte i v).apm = s.apm := (rfl)
@[simp] theorem State.setBufferByte_cmdIn (i : Nat) (v : Byte) : (s.setBufferByte i v).cmdIn = s.cmdIn := (rfl)
@[simp] theorem State.setBufferByte_rsp (i : Nat) (v : Byte) : (s.setBufferByte i v).rsp = s.rsp := (rfl)

@[simp] theorem State.setHashEntry_pr (i : Nat) (v : Word) : (s.setHashEntry i v).pr = s.pr := (rfl)
@[simp] theorem State.setHashEntry_c0 (i : Nat) (v : Word) : (s.setHashEntry i v).c0 = s.c0 := (rfl)
@[simp] theorem State.setHashEntry_bpos (i : Nat) (v : Word) : (s.setHashEntry i v).bpos = s.bpos := (rfl)
@[simp] theorem State.setHashEntry_c4 (i : Nat) (v : Word) : (s.setHashEntry i v).c4 = s.c4 := (rfl)
@[simp] theorem State.setHashEntry_c8 (i : Nat) (v : Word) : (s.setHashEntry i v).c8 = s.c8 := (rfl)
@[simp] theorem State.setHashEntry_h (i : Nat) (v : Word) : (s.setHashEntry i v).h = s.h := (rfl)
@[simp] theorem State.setHashEntry_pos (i : Nat) (v : Word) : (s.setHashEntry i v).pos = s.pos := (rfl)
@[simp] theorem State.setHashEntry_binCount (i : Nat) (v : Word) : (s.setHashEntry i v).binCount = s.binCount := (rfl)
@[simp] theorem State.setHashEntry_matchLen (i : Nat) (v : Word) : (s.setHashEntry i v).matchLen = s.matchLen := (rfl)
@[simp] theorem State.setHashEntry_matchPos (i : Nat) (v : Word) : (s.setHashEntry i v).matchPos = s.matchPos := (rfl)
@[simp] theorem State.setHashEntry_ctx (i : Nat) (v : Word) : (s.setHashEntry i v).ctx = s.ctx := (rfl)
@[simp] theorem State.setHashEntry_cp (i : Nat) (v : Word) : (s.setHashEntry i v).cp = s.cp := (rfl)
@[simp] theorem State.setHashEntry_mixIdx (i : Nat) (v : Word) : (s.setHashEntry i v).mixIdx = s.mixIdx := (rfl)
@[simp] theorem State.setHashEntry_apmIdx (i : Nat) (v : Word) : (s.setHashEntry i v).apmIdx = s.apmIdx := (rfl)
@[simp] theorem State.setHashEntry_sl (i : Nat) (v : Word) : (s.setHashEntry i v).sl = s.sl := (rfl)
@[simp] theorem State.setHashEntry_ml (i : Nat) (v : Word) : (s.setHashEntry i v).ml = s.ml := (rfl)
@[simp] theorem State.setHashEntry_mixers (i : Nat) (v : Word) : (s.setHashEntry i v).mixers = s.mixers := (rfl)
@[simp] theorem State.setHashEntry_states (i : Nat) (v : Word) : (s.setHashEntry i v).states = s.states := (rfl)
@[simp] theorem State.setHashEntry_buffer (i : Nat) (v : Word) : (s.setHashEntry i v).buffer = s.buffer := (rfl)
@[simp] theorem State.setHashEntry_hashes (i : Nat) (v : Word) : (s.setHashEntry i v).hashes = Store.write zeroCell s.hashes i v := (rfl)
@[simp] theorem State.setHashEntry_apm (i : Nat) (v : Word) : (s.setHashEntry i v).apm = s.apm := (rfl)
@[simp] theorem State.setHashEntry_cmdIn (i : Nat) (v : Word) : (s.setHashEntry i v).cmdIn = s.cmdIn := (rfl)
@[simp] theorem State.setHashEntry_rsp (i : Nat) (v : Word) : (s.setHashEntry i v).rsp = s.rsp := (rfl)

@[simp] theorem State.setMixer_pr (i : Nat) (v : Mixer) : (s.setMixer i v).pr = s.pr := (rfl)
@[simp] theorem State.setMixer_c0 (i : Nat) (v : Mixer) : (s.setMixer i v).c0 = s.c0 := (rfl)
@[simp] theorem State.setMixer_bpos (i : Nat) (v : Mixer) : (s.setMixer i v).bpos = s.bpos := (rfl)
@[simp] theorem State.setMixer_c4 (i : Nat) (v : Mixer) : (s.setMixer i v).c4 = s.c4 := (rfl)
@[simp] theorem State.setMixer_c8 (i : Nat) (v : Mixer) : (s.setMixer i v).c8 = s.c8 := (rfl)
@[simp] theorem State.setMixer_h (i : Nat) (v : Mixer) : (s.setMixer i v).h = s.h := (rfl)
@[simp] theorem State.setMixer_pos (i : Nat) (v : Mixer) : (s.setMixer i v).pos = s.pos := (rfl)
@[simp] theorem State.setMixer_binCount (i : Nat) (v : Mixer) : (s.setMixer i v).binCount = s.binCount := (rfl)
@[simp] theorem State.setMixer_matchLen (i : Nat) (v : Mixer) : (s.setMixer i v).matchLen = s.matchLen := (rfl)
@[simp] theorem State.setMixer_matchPos (i : Nat) (v : Mixer) : (s.setMixer i v).matchPos = s.matchPos := (rfl)
@[simp] theorem State.setMixer_ctx (i : Nat) (v : Mixer) : (s.setMixer i v).ctx = s.ctx := (rfl)
@[simp] theorem State.setMixer_cp (i : Nat) (v : Mixer) : (s.setMixer i v).cp = s.cp := (rfl)
@[simp] theorem State.setMixer_mixIdx (i : Nat) (v : Mixer) : (s.setMixer i v).mixIdx = s.mixIdx := (rfl)
@[simp] theorem State.setMixer_apmIdx (i : Nat) (v : Mixer) : (s.setMixer i v).apmIdx = s.apmIdx := (rfl)
@[simp] theorem State.setMixer_sl (i : Nat) (v : Mixer) : (s.setMixer i v).sl = s.sl := (rfl)
@[simp] theorem State.setMixer_ml (i : Nat) (v : Mixer) : (s.setMixer i v).ml = s.ml := (rfl)
@[simp] theorem State.setMixer_mixers (i : Nat) (v : Mixer) : (s.setMixer i v).mixers = Store.write mixerReset s.mixers i v := (rfl)
@[simp] theorem State.setMixer_states (i : Nat) (v : Mixer) : (s.setMixer i v).states = s.states := (rfl)
@[simp] theorem State.setMixer_buffer (i : Nat) (v : Mixer) : (s.setMixer i v).buffer = s.buffer := (rfl)
@[simp] theorem State.setMixer_hashes (i : Nat) (v : Mixer) : (s.setMixer i v).hashes = s.hashes := (rfl)
@[simp] theorem State.setMixer_apm (i : Nat) (v : Mixer) : (s.setMixer i v).apm = s.apm := (rfl)
@[simp] theorem State.setMixer_cmdIn (i : Nat) (v : Mixer) : (s.setMixer i v).cmdIn = s.cmdIn := (rfl)
@[simp] theorem State.setMixer_rsp (i : Nat) (v : Mixer) : (s.setMixer i v).rsp = s.rsp := (rfl)

@[simp] theorem State.setApmCell_pr (r : Rom) (i : Nat) (v : Cell16) : (s.setApmCell r i v).pr = s.pr := (rfl)
@[simp] theorem State.setApmCell_c0 (r : Rom) (i : Nat) (v : Cell16) : (s.setApmCell r i v).c0 = s.c0 := (rfl)
@[simp] theorem State.setApmCell_bpos (r : Rom) (i : Nat) (v : Cell16) : (s.setApmCell r i v).bpos = s.bpos := (rfl)
@[simp] theorem State.setApmCell_c4 (r : Rom) (i : Nat) (v : Cell16) : (s.setApmCell r i v).c4 = s.c4 := (rfl)
@[simp] theorem State.setApmCell_c8 (r : Rom) (i : Nat) (v : Cell16) : (s.setApmCell r i v).c8 = s.c8 := (rfl)
@[simp] theorem State.setApmCell_h (r : Rom) (i : Nat) (v : Cell16) : (s.setApmCell r i v).h = s.h := (rfl)
@[simp] theorem State.setApmCell_pos (r : Rom) (i : Nat) (v : Cell16) : (s.setApmCell r i v).pos = s.pos := (rfl)
@[simp] theorem State.setApmCell_binCount (r : Rom) (i : Nat) (v : Cell16) : (s.setApmCell r i v).binCount = s.binCount := (rfl)
@[simp] theorem State.setApmCell_matchLen (r : Rom) (i : Nat) (v : Cell16) : (s.setApmCell r i v).matchLen = s.matchLen := (rfl)
@[simp] theorem State.setApmCell_matchPos (r : Rom) (i : Nat) (v : Cell16) : (s.setApmCell r i v).matchPos = s.matchPos := (rfl)
@[simp] theorem State.setApmCell_ctx (r : Rom) (i : Nat) (v : Cell16) : (s.setApmCell r i v).ctx = s.ctx := (rfl)
@[simp] theorem State.setApmCell_cp (r : Rom) (i : Nat) (v : Cell16) : (s.setApmCell r i v).cp = s.cp := (rfl)
@[simp] theorem State.setApmCell_mixIdx (r : Rom) (i : Nat) (v : Cell16) : (s.setApmCell r i v).mixIdx = s.mixIdx := (rfl)
@[simp] theorem State.setApmCell_apmIdx (r : Rom) (i : Nat) (v : Cell16) : (s.setApmCell r i v).apmIdx = s.apmIdx := (rfl)
@[simp] theorem State.setApmCell_sl (r : Rom) (i : Nat) (v : Cell16) : (s.setApmCell r i v).sl = s.sl := (rfl)
@[simp] theorem State.setApmCell_ml (r : Rom) (i : Nat) (v : Cell16) : (s.setApmCell r i v).ml = s.ml := (rfl)
@[simp] theorem State.setApmCell_mixers (r : Rom) (i : Nat) (v : Cell16) : (s.setApmCell r i v).mixers = s.mixers := (rfl)
@[simp] theorem State.setApmCell_states (r : Rom) (i : Nat) (v : Cell16) : (s.setApmCell r i v).states = s.states := (rfl)
@[simp] theorem State.setApmCell_buffer (r : Rom) (i : Nat) (v : Cell16) : (s.setApmCell r i v).buffer = s.buffer := (rfl)
@[simp] theorem State.setApmCell_hashes (r : Rom) (i : Nat) (v : Cell16) : (s.setApmCell r i v).hashes = s.hashes := (rfl)
@[simp] theorem State.setApmCell_apm (r : Rom) (i : Nat) (v : Cell16) : (s.setApmCell r i v).apm = Store.write (apmReset r) s.apm i v := (rfl)
@[simp] theorem State.setApmCell_cmdIn (r : Rom) (i : Nat) (v : Cell16) : (s.setApmCell r i v).cmdIn = s.cmdIn := (rfl)
@[simp] theorem State.setApmCell_rsp (r : Rom) (i : Nat) (v : Cell16) : (s.setApmCell r i v).rsp = s.rsp := (rfl)

@[simp] theorem State.respond_pr (c : ResponseCode) (v : Prob) : (s.respond c v).pr = s.pr := (rfl)
@[simp] theorem State.respond_c0 (c : ResponseCode) (v : Prob) : (s.respond c v).c0 = s.c0 := (rfl)
@[simp] theorem State.respond_bpos (c : ResponseCode) (v : Prob) : (s.respond c v).bpos = s.bpos := (rfl)
@[simp] theorem State.respond_c4 (c : ResponseCode) (v : Prob) : (s.respond c v).c4 = s.c4 := (rfl)
@[simp] theorem State.respond_c8 (c : ResponseCode) (v : Prob) : (s.respond c v).c8 = s.c8 := (rfl)
@[simp] theorem State.respond_h (c : ResponseCode) (v : Prob) : (s.respond c v).h = s.h := (rfl)
@[simp] theorem State.respond_pos (c : ResponseCode) (v : Prob) : (s.respond c v).pos = s.pos := (rfl)
@[simp] theorem State.respond_binCount (c : ResponseCode) (v : Prob) : (s.respond c v).binCount = s.binCount := (rfl)
@[simp] theorem State.respond_matchLen (c : ResponseCode) (v : Prob) : (s.respond c v).matchLen = s.matchLen := (rfl)
@[simp] theorem State.respond_matchPos (c : ResponseCode) (v : Prob) : (s.respond c v).matchPos = s.matchPos := (rfl)
@[simp] theorem State.respond_ctx (c : ResponseCode) (v : Prob) : (s.respond c v).ctx = s.ctx := (rfl)
@[simp] theorem State.respond_cp (c : ResponseCode) (v : Prob) : (s.respond c v).cp = s.cp := (rfl)
@[simp] theorem State.respond_mixIdx (c : ResponseCode) (v : Prob) : (s.respond c v).mixIdx = s.mixIdx := (rfl)
@[simp] theorem State.respond_apmIdx (c : ResponseCode) (v : Prob) : (s.respond c v).apmIdx = s.apmIdx := (rfl)
@[simp] theorem State.respond_sl (c : ResponseCode) (v : Prob) : (s.respond c v).sl = s.sl := (rfl)
@[simp] theorem State.respond_ml (c : ResponseCode) (v : Prob) : (s.respond c v).ml = s.ml := (rfl)
@[simp] theorem State.respond_mixers (c : ResponseCode) (v : Prob) : (s.respond c v).mixers = s.mixers := (rfl)
@[simp] theorem State.respond_states (c : ResponseCode) (v : Prob) : (s.respond c v).states = s.states := (rfl)
@[simp] theorem State.respond_buffer (c : ResponseCode) (v : Prob) : (s.respond c v).buffer = s.buffer := (rfl)
@[simp] theorem State.respond_hashes (c : ResponseCode) (v : Prob) : (s.respond c v).hashes = s.hashes := (rfl)
@[simp] theorem State.respond_apm (c : ResponseCode) (v : Prob) : (s.respond c v).apm = s.apm := (rfl)
@[simp] theorem State.respond_cmdIn (c : ResponseCode) (v : Prob) : (s.respond c v).cmdIn = s.cmdIn := (rfl)
@[simp] theorem State.respond_rsp (c : ResponseCode) (v : Prob) : (s.respond c v).rsp = some (responseWord c v) := (rfl)

@[simp] theorem State.slot_setSlot (i : Nat) (v : Byte) (j : Nat) : (s.setSlot i v).slot j = if i = j then v else s.slot j :=
  Store.read_write _ _ _ _
@[simp] theorem State.bufferByte_setSlot (i : Nat) (v : Byte) (j : Nat) : (s.setSlot i v).bufferByte j = s.bufferByte j := (rfl)
@[simp] theorem State.hashEntry_setSlot (i : Nat) (v : Byte) (j : Nat) : (s.setSlot i v).hashEntry j = s.hashEntry j := (rfl)
@[simp] theorem State.mixer_setSlot (i : Nat) (v : Byte) (j : Nat) : (s.setSlot i v).mixer j = s.mixer j := (rfl)
@[simp] theorem State.apmCell_setSlot (q : Rom) (i : Nat) (v : Byte) (j : Nat) : (s.setSlot i v).apmCell q j = s.apmCell q j := (rfl)

@[simp] theorem State.slot_setBufferByte (i : Nat) (v : Byte) (j : Nat) : (s.setBufferByte i v).slot j = s.slot j := (rfl)
@[simp] theorem State.bufferByte_setBufferByte (i : Nat) (v : Byte) (j : Nat) : (s.setBufferByte i v).bufferByte j = if i = j then v else s.bufferByte j :=
  Store.read_write _ _ _ _
@[simp] theorem State.hashEntry_setBufferByte (i : Nat) (v : Byte) (j : Nat) : (s.setBufferByte i v).hashEntry j = s.hashEntry j := (rfl)
@[simp] theorem State.mixer_setBufferByte (i : Nat) (v : Byte) (j : Nat) : (s.setBufferByte i v).mixer j = s.mixer j := (rfl)
@[simp] theorem State.apmCell_setBufferByte (q : Rom) (i : Nat) (v : Byte) (j : Nat) : (s.setBufferByte i v).apmCell q j = s.apmCell q j := (rfl)

@[simp] theorem State.slot_setHashEntry (i : Nat) (v : Word) (j : Nat) : (s.setHashEntry i v).slot j = s.slot j := (rfl)
@[simp] theorem State.bufferByte_setHashEntry (i : Nat) (v : Word) (j : Nat) : (s.setHashEntry i v).bufferByte j = s.bufferByte j := (rfl)
@[simp] theorem State.hashEntry_setHashEntry (i : Nat) (v : Word) (j : Nat) : (s.setHashEntry i v).hashEntry j = if i = j then v else s.hashEntry j :=
  Store.read_write _ _ _ _
@[simp] theorem State.mixer_setHashEntry (i : Nat) (v : Word) (j : Nat) : (s.setHashEntry i v).mixer j = s.mixer j := (rfl)
@[simp] theorem State.apmCell_setHashEntry (q : Rom) (i : Nat) (v : Word) (j : Nat) : (s.setHashEntry i v).apmCell q j = s.apmCell q j := (rfl)

@[simp] theorem State.slot_setMixer (i : Nat) (v : Mixer) (j : Nat) : (s.setMixer i v).slot j = s.slot j := (rfl)
@[simp] theorem State.bufferByte_setMixer (i : Nat) (v : Mixer) (j : Nat) : (s.setMixer i v).bufferByte j = s.bufferByte j := (rfl)
@[simp] theorem State.hashEntry_setMixer (i : Nat) (v : Mixer) (j : Nat) : (s.setMixer i v).hashEntry j = s.hashEntry j := (rfl)
@[simp] theorem State.mixer_setMixer (i : Nat) (v : Mixer) (j : Nat) : (s.setMixer i v).mixer j = if i = j then v else s.mixer j :=
  Store.read_write _ _ _ _
@[simp] theorem State.apmCell_setMixer (q : Rom) (i : Nat) (v : Mixer) (j : Nat) : (s.setMixer i v).apmCell q j = s.apmCell q j := (rfl)

@[simp] theorem State.slot_setApmCell (r : Rom) (i : Nat) (v : Cell16) (j : Nat) : (s.setApmCell r i v).slot j = s.slot j := (rfl)
@[simp] theorem State.bufferByte_setApmCell (r : Rom) (i : Nat) (v : Cell16) (j : Nat) : (s.setApmCell r i v).bufferByte j = s.bufferByte j := (rfl)
@[simp] theorem State.hashEntry_setApmCell (r : Rom) (i : Nat) (v : Cell16) (j : Nat) : (s.setApmCell r i v).hashEntry j = s.hashEntry j := (rfl)
@[simp] theorem State.mixer_setApmCell (r : Rom) (i : Nat) (v : Cell16) (j : Nat) : (s.setApmCell r i v).mixer j = s.mixer j := (rfl)
@[simp] theorem State.apmCell_setApmCell (r : Rom) (i : Nat) (v : Cell16) (j : Nat) :
    (s.setApmCell r i v).apmCell r j = if i = j then v else s.apmCell r j := Store.read_write _ _ _ _

@[simp] theorem State.slot_respond (c : ResponseCode) (v : Prob) (j : Nat) : (s.respond c v).slot j = s.slot j := (rfl)
@[simp] theorem State.bufferByte_respond (c : ResponseCode) (v : Prob) (j : Nat) : (s.respond c v).bufferByte j = s.bufferByte j := (rfl)
@[simp] theorem State.hashEntry_respond (c : ResponseCode) (v : Prob) (j : Nat) : (s.respond c v).hashEntry j = s.hashEntry j := (rfl)
@[simp] theorem State.mixer_respond (c : ResponseCode) (v : Prob) (j : Nat) : (s.respond c v).mixer j = s.mixer j := (rfl)
@[simp] theorem State.apmCell_respond (q : Rom) (c : ResponseCode) (v : Prob) (j : Nat) : (s.respond c v).apmCell q j = s.apmCell q j := (rfl)

end Sys2Proof.Machine
end

