-- ==== Sys2Proof/Laws/Frames.lean ====
section
/-! SUPPORT. The frame of each unit operation of `UPD`: the fields and memories it leaves as they were. -/

namespace Sys2Proof.Machine

/-- `MOVE` changes `cp` alone. -/
@[simp] theorem movePointer_frame (k : Fin 7) (s : State) :
    (movePointer k s).pr = s.pr ∧ (movePointer k s).c0 = s.c0 ∧ (movePointer k s).bpos = s.bpos ∧
    (movePointer k s).c4 = s.c4 ∧ (movePointer k s).c8 = s.c8 ∧ (movePointer k s).h = s.h ∧
    (movePointer k s).pos = s.pos ∧ (movePointer k s).binCount = s.binCount ∧
    (movePointer k s).matchLen = s.matchLen ∧ (movePointer k s).matchPos = s.matchPos ∧
    (movePointer k s).ctx = s.ctx ∧ (movePointer k s).mixIdx = s.mixIdx ∧ (movePointer k s).apmIdx = s.apmIdx ∧
    (movePointer k s).sl = s.sl ∧ (movePointer k s).ml = s.ml ∧ (movePointer k s).mixers = s.mixers ∧
    (movePointer k s).states = s.states ∧ (movePointer k s).buffer = s.buffer ∧
    (movePointer k s).hashes = s.hashes ∧ (movePointer k s).apm = s.apm ∧ (movePointer k s).cmdIn = s.cmdIn ∧
    (movePointer k s).rsp = s.rsp :=
  ⟨rfl, rfl, rfl, rfl, rfl, rfl, rfl, rfl, rfl, rfl, rfl, rfl, rfl, rfl, rfl, rfl, rfl, rfl, rfl, rfl, rfl, rfl⟩

@[simp] theorem movePointer_reads (k : Fin 7) (s : State) (j : Nat) :
    (movePointer k s).slot j = s.slot j ∧ (movePointer k s).bufferByte j = s.bufferByte j ∧
    (movePointer k s).hashEntry j = s.hashEntry j ∧ (movePointer k s).mixer j = s.mixer j :=
  ⟨rfl, rfl, rfl, rfl⟩

@[simp] theorem movePointer_apmCell_eq (k : Fin 7) (s : State) (q : Rom) (j : Nat) :
    (movePointer k s).apmCell q j = s.apmCell q j :=
  (rfl)

/-- `NEXT` changes `states` alone. -/
@[simp] theorem nextHistory_frame (r : Rom) (y : Bit) (k : Fin 7) (s : State) :
    (nextHistory r y k s).pr = s.pr ∧ (nextHistory r y k s).c0 = s.c0 ∧ (nextHistory r y k s).bpos = s.bpos ∧
    (nextHistory r y k s).c4 = s.c4 ∧ (nextHistory r y k s).c8 = s.c8 ∧ (nextHistory r y k s).h = s.h ∧
    (nextHistory r y k s).pos = s.pos ∧ (nextHistory r y k s).binCount = s.binCount ∧
    (nextHistory r y k s).matchLen = s.matchLen ∧ (nextHistory r y k s).matchPos = s.matchPos ∧
    (nextHistory r y k s).ctx = s.ctx ∧ (nextHistory r y k s).cp = s.cp ∧
    (nextHistory r y k s).mixIdx = s.mixIdx ∧ (nextHistory r y k s).apmIdx = s.apmIdx ∧
    (nextHistory r y k s).sl = s.sl ∧ (nextHistory r y k s).ml = s.ml ∧
    (nextHistory r y k s).mixers = s.mixers ∧ (nextHistory r y k s).buffer = s.buffer ∧
    (nextHistory r y k s).hashes = s.hashes ∧ (nextHistory r y k s).apm = s.apm ∧
    (nextHistory r y k s).cmdIn = s.cmdIn ∧ (nextHistory r y k s).rsp = s.rsp :=
  by
  simp [nextHistory]

@[simp] theorem nextHistory_reads (r : Rom) (y : Bit) (k : Fin 7) (s : State) (j : Nat) :
    (nextHistory r y k s).bufferByte j = s.bufferByte j ∧ (nextHistory r y k s).hashEntry j = s.hashEntry j ∧
    (nextHistory r y k s).mixer j = s.mixer j :=
  by
  simp [State.bufferByte, State.hashEntry, State.mixer]

@[simp] theorem nextHistory_apmCell_eq (r : Rom) (y : Bit) (k : Fin 7) (s : State) (q : Rom) (j : Nat) :
    (nextHistory r y k s).apmCell q j = s.apmCell q j :=
  by
  simp [State.apmCell]

/-- Step 4 changes `cp`, `states` alone. -/
@[simp] theorem advanceHistories_frame (r : Rom) (y : Bit) (s : State) :
    (advanceHistories r y s).pr = s.pr ∧ (advanceHistories r y s).c0 = s.c0 ∧
    (advanceHistories r y s).bpos = s.bpos ∧ (advanceHistories r y s).c4 = s.c4 ∧
    (advanceHistories r y s).c8 = s.c8 ∧ (advanceHistories r y s).h = s.h ∧
    (advanceHistories r y s).pos = s.pos ∧ (advanceHistories r y s).binCount = s.binCount ∧
    (advanceHistories r y s).matchLen = s.matchLen ∧ (advanceHistories r y s).matchPos = s.matchPos ∧
    (advanceHistories r y s).ctx = s.ctx ∧ (advanceHistories r y s).mixIdx = s.mixIdx ∧
    (advanceHistories r y s).apmIdx = s.apmIdx ∧ (advanceHistories r y s).sl = s.sl ∧
    (advanceHistories r y s).ml = s.ml ∧ (advanceHistories r y s).mixers = s.mixers ∧
    (advanceHistories r y s).buffer = s.buffer ∧ (advanceHistories r y s).hashes = s.hashes ∧
    (advanceHistories r y s).apm = s.apm ∧ (advanceHistories r y s).cmdIn = s.cmdIn ∧
    (advanceHistories r y s).rsp = s.rsp :=
  by
  simp [advanceHistories, lanes]

@[simp] theorem advanceHistories_reads (r : Rom) (y : Bit) (s : State) (j : Nat) :
    (advanceHistories r y s).bufferByte j = s.bufferByte j ∧
    (advanceHistories r y s).hashEntry j = s.hashEntry j ∧ (advanceHistories r y s).mixer j = s.mixer j :=
  by
  simp [State.bufferByte, State.hashEntry, State.mixer]

@[simp] theorem advanceHistories_apmCell_eq (r : Rom) (y : Bit) (s : State) (q : Rom) (j : Nat) :
    (advanceHistories r y s).apmCell q j = s.apmCell q j :=
  by
  simp [State.apmCell]

/-- `SHIFT` changes `c4`, `c8` alone. -/
@[simp] theorem shiftBytes_frame (b : Byte) (s : State) :
    (shiftBytes b s).pr = s.pr ∧ (shiftBytes b s).c0 = s.c0 ∧ (shiftBytes b s).bpos = s.bpos ∧
    (shiftBytes b s).h = s.h ∧ (shiftBytes b s).pos = s.pos ∧ (shiftBytes b s).binCount = s.binCount ∧
    (shiftBytes b s).matchLen = s.matchLen ∧ (shiftBytes b s).matchPos = s.matchPos ∧
    (shiftBytes b s).ctx = s.ctx ∧ (shiftBytes b s).cp = s.cp ∧ (shiftBytes b s).mixIdx = s.mixIdx ∧
    (shiftBytes b s).apmIdx = s.apmIdx ∧ (shiftBytes b s).sl = s.sl ∧ (shiftBytes b s).ml = s.ml ∧
    (shiftBytes b s).mixers = s.mixers ∧ (shiftBytes b s).states = s.states ∧
    (shiftBytes b s).buffer = s.buffer ∧ (shiftBytes b s).hashes = s.hashes ∧ (shiftBytes b s).apm = s.apm ∧
    (shiftBytes b s).cmdIn = s.cmdIn ∧ (shiftBytes b s).rsp = s.rsp :=
  ⟨rfl, rfl, rfl, rfl, rfl, rfl, rfl, rfl, rfl, rfl, rfl, rfl, rfl, rfl, rfl, rfl, rfl, rfl, rfl, rfl, rfl⟩

@[simp] theorem shiftBytes_reads (b : Byte) (s : State) (j : Nat) :
    (shiftBytes b s).slot j = s.slot j ∧ (shiftBytes b s).bufferByte j = s.bufferByte j ∧
    (shiftBytes b s).hashEntry j = s.hashEntry j ∧ (shiftBytes b s).mixer j = s.mixer j :=
  ⟨rfl, rfl, rfl, rfl⟩

@[simp] theorem shiftBytes_apmCell_eq (b : Byte) (s : State) (q : Rom) (j : Nat) :
    (shiftBytes b s).apmCell q j = s.apmCell q j :=
  (rfl)

/-- `HSTEP` changes `h` alone. -/
@[simp] theorem stepHash_frame (r : Rom) (s : State) :
    (stepHash r s).pr = s.pr ∧ (stepHash r s).c0 = s.c0 ∧ (stepHash r s).bpos = s.bpos ∧
    (stepHash r s).c4 = s.c4 ∧ (stepHash r s).c8 = s.c8 ∧ (stepHash r s).pos = s.pos ∧
    (stepHash r s).binCount = s.binCount ∧ (stepHash r s).matchLen = s.matchLen ∧
    (stepHash r s).matchPos = s.matchPos ∧ (stepHash r s).ctx = s.ctx ∧ (stepHash r s).cp = s.cp ∧
    (stepHash r s).mixIdx = s.mixIdx ∧ (stepHash r s).apmIdx = s.apmIdx ∧ (stepHash r s).sl = s.sl ∧
    (stepHash r s).ml = s.ml ∧ (stepHash r s).mixers = s.mixers ∧ (stepHash r s).states = s.states ∧
    (stepHash r s).buffer = s.buffer ∧ (stepHash r s).hashes = s.hashes ∧ (stepHash r s).apm = s.apm ∧
    (stepHash r s).cmdIn = s.cmdIn ∧ (stepHash r s).rsp = s.rsp :=
  ⟨rfl, rfl, rfl, rfl, rfl, rfl, rfl, rfl, rfl, rfl, rfl, rfl, rfl, rfl, rfl, rfl, rfl, rfl, rfl, rfl, rfl, rfl⟩

@[simp] theorem stepHash_reads (r : Rom) (s : State) (j : Nat) :
    (stepHash r s).slot j = s.slot j ∧ (stepHash r s).bufferByte j = s.bufferByte j ∧
    (stepHash r s).hashEntry j = s.hashEntry j ∧ (stepHash r s).mixer j = s.mixer j :=
  ⟨rfl, rfl, rfl, rfl⟩

@[simp] theorem stepHash_apmCell_eq (r : Rom) (s : State) (q : Rom) (j : Nat) :
    (stepHash r s).apmCell q j = s.apmCell q j :=
  (rfl)

/-- `COUNT` changes `binCount` alone. -/
@[simp] theorem countHighBit_frame (b : Byte) (s : State) :
    (countHighBit b s).pr = s.pr ∧ (countHighBit b s).c0 = s.c0 ∧ (countHighBit b s).bpos = s.bpos ∧
    (countHighBit b s).c4 = s.c4 ∧ (countHighBit b s).c8 = s.c8 ∧ (countHighBit b s).h = s.h ∧
    (countHighBit b s).pos = s.pos ∧ (countHighBit b s).matchLen = s.matchLen ∧
    (countHighBit b s).matchPos = s.matchPos ∧ (countHighBit b s).ctx = s.ctx ∧ (countHighBit b s).cp = s.cp ∧
    (countHighBit b s).mixIdx = s.mixIdx ∧ (countHighBit b s).apmIdx = s.apmIdx ∧ (countHighBit b s).sl = s.sl ∧
    (countHighBit b s).ml = s.ml ∧ (countHighBit b s).mixers = s.mixers ∧ (countHighBit b s).states = s.states ∧
    (countHighBit b s).buffer = s.buffer ∧ (countHighBit b s).hashes = s.hashes ∧
    (countHighBit b s).apm = s.apm ∧ (countHighBit b s).cmdIn = s.cmdIn ∧ (countHighBit b s).rsp = s.rsp :=
  ⟨rfl, rfl, rfl, rfl, rfl, rfl, rfl, rfl, rfl, rfl, rfl, rfl, rfl, rfl, rfl, rfl, rfl, rfl, rfl, rfl, rfl, rfl⟩

@[simp] theorem countHighBit_reads (b : Byte) (s : State) (j : Nat) :
    (countHighBit b s).slot j = s.slot j ∧ (countHighBit b s).bufferByte j = s.bufferByte j ∧
    (countHighBit b s).hashEntry j = s.hashEntry j ∧ (countHighBit b s).mixer j = s.mixer j :=
  ⟨rfl, rfl, rfl, rfl⟩

@[simp] theorem countHighBit_apmCell_eq (b : Byte) (s : State) (q : Rom) (j : Nat) :
    (countHighBit b s).apmCell q j = s.apmCell q j :=
  (rfl)

/-- `CONTEXTS` changes `ctx` alone. -/
@[simp] theorem recomputeContexts_frame (r : Rom) (s : State) :
    (recomputeContexts r s).pr = s.pr ∧ (recomputeContexts r s).c0 = s.c0 ∧
    (recomputeContexts r s).bpos = s.bpos ∧ (recomputeContexts r s).c4 = s.c4 ∧
    (recomputeContexts r s).c8 = s.c8 ∧ (recomputeContexts r s).h = s.h ∧ (recomputeContexts r s).pos = s.pos ∧
    (recomputeContexts r s).binCount = s.binCount ∧ (recomputeContexts r s).matchLen = s.matchLen ∧
    (recomputeContexts r s).matchPos = s.matchPos ∧ (recomputeContexts r s).cp = s.cp ∧
    (recomputeContexts r s).mixIdx = s.mixIdx ∧ (recomputeContexts r s).apmIdx = s.apmIdx ∧
    (recomputeContexts r s).sl = s.sl ∧ (recomputeContexts r s).ml = s.ml ∧
    (recomputeContexts r s).mixers = s.mixers ∧ (recomputeContexts r s).states = s.states ∧
    (recomputeContexts r s).buffer = s.buffer ∧ (recomputeContexts r s).hashes = s.hashes ∧
    (recomputeContexts r s).apm = s.apm ∧ (recomputeContexts r s).cmdIn = s.cmdIn ∧
    (recomputeContexts r s).rsp = s.rsp :=
  ⟨rfl, rfl, rfl, rfl, rfl, rfl, rfl, rfl, rfl, rfl, rfl, rfl, rfl, rfl, rfl, rfl, rfl, rfl, rfl, rfl, rfl, rfl⟩

@[simp] theorem recomputeContexts_reads (r : Rom) (s : State) (j : Nat) :
    (recomputeContexts r s).slot j = s.slot j ∧ (recomputeContexts r s).bufferByte j = s.bufferByte j ∧
    (recomputeContexts r s).hashEntry j = s.hashEntry j ∧ (recomputeContexts r s).mixer j = s.mixer j :=
  ⟨rfl, rfl, rfl, rfl⟩

@[simp] theorem recomputeContexts_apmCell_eq (r : Rom) (s : State) (q : Rom) (j : Nat) :
    (recomputeContexts r s).apmCell q j = s.apmCell q j :=
  (rfl)

/-- The alive branch changes `matchLen`, `matchPos` alone. -/
@[simp] theorem extendMatch_frame (s : State) :
    (extendMatch s).pr = s.pr ∧ (extendMatch s).c0 = s.c0 ∧ (extendMatch s).bpos = s.bpos ∧
    (extendMatch s).c4 = s.c4 ∧ (extendMatch s).c8 = s.c8 ∧ (extendMatch s).h = s.h ∧
    (extendMatch s).pos = s.pos ∧ (extendMatch s).binCount = s.binCount ∧ (extendMatch s).ctx = s.ctx ∧
    (extendMatch s).cp = s.cp ∧ (extendMatch s).mixIdx = s.mixIdx ∧ (extendMatch s).apmIdx = s.apmIdx ∧
    (extendMatch s).sl = s.sl ∧ (extendMatch s).ml = s.ml ∧ (extendMatch s).mixers = s.mixers ∧
    (extendMatch s).states = s.states ∧ (extendMatch s).buffer = s.buffer ∧ (extendMatch s).hashes = s.hashes ∧
    (extendMatch s).apm = s.apm ∧ (extendMatch s).cmdIn = s.cmdIn ∧ (extendMatch s).rsp = s.rsp :=
  ⟨rfl, rfl, rfl, rfl, rfl, rfl, rfl, rfl, rfl, rfl, rfl, rfl, rfl, rfl, rfl, rfl, rfl, rfl, rfl, rfl, rfl⟩

@[simp] theorem extendMatch_reads (s : State) (j : Nat) :
    (extendMatch s).slot j = s.slot j ∧ (extendMatch s).bufferByte j = s.bufferByte j ∧
    (extendMatch s).hashEntry j = s.hashEntry j ∧ (extendMatch s).mixer j = s.mixer j :=
  ⟨rfl, rfl, rfl, rfl⟩

@[simp] theorem extendMatch_apmCell_eq (s : State) (q : Rom) (j : Nat) :
    (extendMatch s).apmCell q j = s.apmCell q j :=
  (rfl)

/-- The lookup branch changes `matchLen`, `matchPos` alone. -/
@[simp] theorem lookUpMatch_frame (s : State) :
    (lookUpMatch s).pr = s.pr ∧ (lookUpMatch s).c0 = s.c0 ∧ (lookUpMatch s).bpos = s.bpos ∧
    (lookUpMatch s).c4 = s.c4 ∧ (lookUpMatch s).c8 = s.c8 ∧ (lookUpMatch s).h = s.h ∧
    (lookUpMatch s).pos = s.pos ∧ (lookUpMatch s).binCount = s.binCount ∧ (lookUpMatch s).ctx = s.ctx ∧
    (lookUpMatch s).cp = s.cp ∧ (lookUpMatch s).mixIdx = s.mixIdx ∧ (lookUpMatch s).apmIdx = s.apmIdx ∧
    (lookUpMatch s).sl = s.sl ∧ (lookUpMatch s).ml = s.ml ∧ (lookUpMatch s).mixers = s.mixers ∧
    (lookUpMatch s).states = s.states ∧ (lookUpMatch s).buffer = s.buffer ∧ (lookUpMatch s).hashes = s.hashes ∧
    (lookUpMatch s).apm = s.apm ∧ (lookUpMatch s).cmdIn = s.cmdIn ∧ (lookUpMatch s).rsp = s.rsp :=
  by
  unfold lookUpMatch; split <;> simp

@[simp] theorem lookUpMatch_reads (s : State) (j : Nat) :
    (lookUpMatch s).slot j = s.slot j ∧ (lookUpMatch s).bufferByte j = s.bufferByte j ∧
    (lookUpMatch s).hashEntry j = s.hashEntry j ∧ (lookUpMatch s).mixer j = s.mixer j :=
  by
  simp [State.slot, State.bufferByte, State.hashEntry, State.mixer]

@[simp] theorem lookUpMatch_apmCell_eq (s : State) (q : Rom) (j : Nat) :
    (lookUpMatch s).apmCell q j = s.apmCell q j :=
  by
  simp [State.apmCell]

/-- `MATCH_FIND` changes `matchLen`, `matchPos` alone. -/
@[simp] theorem findMatch_frame (s : State) :
    (findMatch s).pr = s.pr ∧ (findMatch s).c0 = s.c0 ∧ (findMatch s).bpos = s.bpos ∧ (findMatch s).c4 = s.c4 ∧
    (findMatch s).c8 = s.c8 ∧ (findMatch s).h = s.h ∧ (findMatch s).pos = s.pos ∧
    (findMatch s).binCount = s.binCount ∧ (findMatch s).ctx = s.ctx ∧ (findMatch s).cp = s.cp ∧
    (findMatch s).mixIdx = s.mixIdx ∧ (findMatch s).apmIdx = s.apmIdx ∧ (findMatch s).sl = s.sl ∧
    (findMatch s).ml = s.ml ∧ (findMatch s).mixers = s.mixers ∧ (findMatch s).states = s.states ∧
    (findMatch s).buffer = s.buffer ∧ (findMatch s).hashes = s.hashes ∧ (findMatch s).apm = s.apm ∧
    (findMatch s).cmdIn = s.cmdIn ∧ (findMatch s).rsp = s.rsp :=
  by
  unfold findMatch; split <;> simp

@[simp] theorem findMatch_reads (s : State) (j : Nat) :
    (findMatch s).slot j = s.slot j ∧ (findMatch s).bufferByte j = s.bufferByte j ∧
    (findMatch s).hashEntry j = s.hashEntry j ∧ (findMatch s).mixer j = s.mixer j :=
  by
  simp [State.slot, State.bufferByte, State.hashEntry, State.mixer]

@[simp] theorem findMatch_apmCell_eq (s : State) (q : Rom) (j : Nat) :
    (findMatch s).apmCell q j = s.apmCell q j :=
  by
  simp [State.apmCell]

/-- The table write changes `hashes` alone. -/
@[simp] theorem recordPosition_frame (s : State) :
    (recordPosition s).pr = s.pr ∧ (recordPosition s).c0 = s.c0 ∧ (recordPosition s).bpos = s.bpos ∧
    (recordPosition s).c4 = s.c4 ∧ (recordPosition s).c8 = s.c8 ∧ (recordPosition s).h = s.h ∧
    (recordPosition s).pos = s.pos ∧ (recordPosition s).binCount = s.binCount ∧
    (recordPosition s).matchLen = s.matchLen ∧ (recordPosition s).matchPos = s.matchPos ∧
    (recordPosition s).ctx = s.ctx ∧ (recordPosition s).cp = s.cp ∧ (recordPosition s).mixIdx = s.mixIdx ∧
    (recordPosition s).apmIdx = s.apmIdx ∧ (recordPosition s).sl = s.sl ∧ (recordPosition s).ml = s.ml ∧
    (recordPosition s).mixers = s.mixers ∧ (recordPosition s).states = s.states ∧
    (recordPosition s).buffer = s.buffer ∧ (recordPosition s).apm = s.apm ∧ (recordPosition s).cmdIn = s.cmdIn ∧
    (recordPosition s).rsp = s.rsp :=
  by
  simp [recordPosition]

@[simp] theorem recordPosition_reads (s : State) (j : Nat) :
    (recordPosition s).slot j = s.slot j ∧ (recordPosition s).bufferByte j = s.bufferByte j ∧
    (recordPosition s).mixer j = s.mixer j :=
  by
  simp [State.slot, State.bufferByte, State.mixer]

@[simp] theorem recordPosition_apmCell_eq (s : State) (q : Rom) (j : Nat) :
    (recordPosition s).apmCell q j = s.apmCell q j :=
  by
  simp [State.apmCell]

/-- `MATCH_INPUT` changes `matchLen` alone. -/
@[simp] theorem killMatch_frame (s : State) :
    (killMatch s).pr = s.pr ∧ (killMatch s).c0 = s.c0 ∧ (killMatch s).bpos = s.bpos ∧ (killMatch s).c4 = s.c4 ∧
    (killMatch s).c8 = s.c8 ∧ (killMatch s).h = s.h ∧ (killMatch s).pos = s.pos ∧
    (killMatch s).binCount = s.binCount ∧ (killMatch s).matchPos = s.matchPos ∧ (killMatch s).ctx = s.ctx ∧
    (killMatch s).cp = s.cp ∧ (killMatch s).mixIdx = s.mixIdx ∧ (killMatch s).apmIdx = s.apmIdx ∧
    (killMatch s).sl = s.sl ∧ (killMatch s).ml = s.ml ∧ (killMatch s).mixers = s.mixers ∧
    (killMatch s).states = s.states ∧ (killMatch s).buffer = s.buffer ∧ (killMatch s).hashes = s.hashes ∧
    (killMatch s).apm = s.apm ∧ (killMatch s).cmdIn = s.cmdIn ∧ (killMatch s).rsp = s.rsp :=
  by
  unfold killMatch; split <;> simp

@[simp] theorem killMatch_reads (s : State) (j : Nat) :
    (killMatch s).slot j = s.slot j ∧ (killMatch s).bufferByte j = s.bufferByte j ∧
    (killMatch s).hashEntry j = s.hashEntry j ∧ (killMatch s).mixer j = s.mixer j :=
  by
  simp [State.slot, State.bufferByte, State.hashEntry, State.mixer]

@[simp] theorem killMatch_apmCell_eq (s : State) (q : Rom) (j : Nat) :
    (killMatch s).apmCell q j = s.apmCell q j :=
  by
  simp [State.apmCell]

/-- Step 1 changes `mixers` alone. -/
@[simp] theorem trainActiveMixer_frame (y : Bit) (s : State) :
    (trainActiveMixer y s).pr = s.pr ∧ (trainActiveMixer y s).c0 = s.c0 ∧ (trainActiveMixer y s).bpos = s.bpos ∧
    (trainActiveMixer y s).c4 = s.c4 ∧ (trainActiveMixer y s).c8 = s.c8 ∧ (trainActiveMixer y s).h = s.h ∧
    (trainActiveMixer y s).pos = s.pos ∧ (trainActiveMixer y s).binCount = s.binCount ∧
    (trainActiveMixer y s).matchLen = s.matchLen ∧ (trainActiveMixer y s).matchPos = s.matchPos ∧
    (trainActiveMixer y s).ctx = s.ctx ∧ (trainActiveMixer y s).cp = s.cp ∧
    (trainActiveMixer y s).mixIdx = s.mixIdx ∧ (trainActiveMixer y s).apmIdx = s.apmIdx ∧
    (trainActiveMixer y s).sl = s.sl ∧ (trainActiveMixer y s).ml = s.ml ∧
    (trainActiveMixer y s).states = s.states ∧ (trainActiveMixer y s).buffer = s.buffer ∧
    (trainActiveMixer y s).hashes = s.hashes ∧ (trainActiveMixer y s).apm = s.apm ∧
    (trainActiveMixer y s).cmdIn = s.cmdIn ∧ (trainActiveMixer y s).rsp = s.rsp :=
  by
  simp [trainActiveMixer]

@[simp] theorem trainActiveMixer_reads (y : Bit) (s : State) (j : Nat) :
    (trainActiveMixer y s).slot j = s.slot j ∧ (trainActiveMixer y s).bufferByte j = s.bufferByte j ∧
    (trainActiveMixer y s).hashEntry j = s.hashEntry j :=
  by
  simp [State.slot, State.bufferByte, State.hashEntry]

@[simp] theorem trainActiveMixer_apmCell_eq (y : Bit) (s : State) (q : Rom) (j : Nat) :
    (trainActiveMixer y s).apmCell q j = s.apmCell q j :=
  by
  simp [State.apmCell]

/-- Step 6 changes `mixers` alone. -/
@[simp] theorem mixForward_frame (r : Rom) (p : Vector Word 8) (s : State) :
    (mixForward r p s).pr = s.pr ∧ (mixForward r p s).c0 = s.c0 ∧ (mixForward r p s).bpos = s.bpos ∧
    (mixForward r p s).c4 = s.c4 ∧ (mixForward r p s).c8 = s.c8 ∧ (mixForward r p s).h = s.h ∧
    (mixForward r p s).pos = s.pos ∧ (mixForward r p s).binCount = s.binCount ∧
    (mixForward r p s).matchLen = s.matchLen ∧ (mixForward r p s).matchPos = s.matchPos ∧
    (mixForward r p s).ctx = s.ctx ∧ (mixForward r p s).cp = s.cp ∧ (mixForward r p s).mixIdx = s.mixIdx ∧
    (mixForward r p s).apmIdx = s.apmIdx ∧ (mixForward r p s).sl = s.sl ∧ (mixForward r p s).ml = s.ml ∧
    (mixForward r p s).states = s.states ∧ (mixForward r p s).buffer = s.buffer ∧
    (mixForward r p s).hashes = s.hashes ∧ (mixForward r p s).apm = s.apm ∧ (mixForward r p s).cmdIn = s.cmdIn ∧
    (mixForward r p s).rsp = s.rsp :=
  by
  simp [mixForward]

@[simp] theorem mixForward_reads (r : Rom) (p : Vector Word 8) (s : State) (j : Nat) :
    (mixForward r p s).slot j = s.slot j ∧ (mixForward r p s).bufferByte j = s.bufferByte j ∧
    (mixForward r p s).hashEntry j = s.hashEntry j :=
  by
  simp [State.slot, State.bufferByte, State.hashEntry]

@[simp] theorem mixForward_apmCell_eq (r : Rom) (p : Vector Word 8) (s : State) (q : Rom) (j : Nat) :
    (mixForward r p s).apmCell q j = s.apmCell q j :=
  by
  simp [State.apmCell]

/-- Training one APM cell changes `apm` alone. -/
@[simp] theorem trainApmCell_frame (r : Rom) (y : Bit) (i : Nat) (s : State) :
    (trainApmCell r y i s).pr = s.pr ∧ (trainApmCell r y i s).c0 = s.c0 ∧ (trainApmCell r y i s).bpos = s.bpos ∧
    (trainApmCell r y i s).c4 = s.c4 ∧ (trainApmCell r y i s).c8 = s.c8 ∧ (trainApmCell r y i s).h = s.h ∧
    (trainApmCell r y i s).pos = s.pos ∧ (trainApmCell r y i s).binCount = s.binCount ∧
    (trainApmCell r y i s).matchLen = s.matchLen ∧ (trainApmCell r y i s).matchPos = s.matchPos ∧
    (trainApmCell r y i s).ctx = s.ctx ∧ (trainApmCell r y i s).cp = s.cp ∧
    (trainApmCell r y i s).mixIdx = s.mixIdx ∧ (trainApmCell r y i s).apmIdx = s.apmIdx ∧
    (trainApmCell r y i s).sl = s.sl ∧ (trainApmCell r y i s).ml = s.ml ∧
    (trainApmCell r y i s).mixers = s.mixers ∧ (trainApmCell r y i s).states = s.states ∧
    (trainApmCell r y i s).buffer = s.buffer ∧ (trainApmCell r y i s).hashes = s.hashes ∧
    (trainApmCell r y i s).cmdIn = s.cmdIn ∧ (trainApmCell r y i s).rsp = s.rsp :=
  by
  simp [trainApmCell]

@[simp] theorem trainApmCell_reads (r : Rom) (y : Bit) (i : Nat) (s : State) (j : Nat) :
    (trainApmCell r y i s).slot j = s.slot j ∧ (trainApmCell r y i s).bufferByte j = s.bufferByte j ∧
    (trainApmCell r y i s).hashEntry j = s.hashEntry j ∧ (trainApmCell r y i s).mixer j = s.mixer j :=
  by
  simp [State.slot, State.bufferByte, State.hashEntry, State.mixer]

/-- The APM's training write changes `apm` alone. -/
@[simp] theorem trainApm_frame (r : Rom) (y : Bit) (s : State) :
    (trainApm r y s).pr = s.pr ∧ (trainApm r y s).c0 = s.c0 ∧ (trainApm r y s).bpos = s.bpos ∧
    (trainApm r y s).c4 = s.c4 ∧ (trainApm r y s).c8 = s.c8 ∧ (trainApm r y s).h = s.h ∧
    (trainApm r y s).pos = s.pos ∧ (trainApm r y s).binCount = s.binCount ∧
    (trainApm r y s).matchLen = s.matchLen ∧ (trainApm r y s).matchPos = s.matchPos ∧
    (trainApm r y s).ctx = s.ctx ∧ (trainApm r y s).cp = s.cp ∧ (trainApm r y s).mixIdx = s.mixIdx ∧
    (trainApm r y s).apmIdx = s.apmIdx ∧ (trainApm r y s).sl = s.sl ∧ (trainApm r y s).ml = s.ml ∧
    (trainApm r y s).mixers = s.mixers ∧ (trainApm r y s).states = s.states ∧
    (trainApm r y s).buffer = s.buffer ∧ (trainApm r y s).hashes = s.hashes ∧ (trainApm r y s).cmdIn = s.cmdIn ∧
    (trainApm r y s).rsp = s.rsp :=
  by
  simp [trainApm]

@[simp] theorem trainApm_reads (r : Rom) (y : Bit) (s : State) (j : Nat) :
    (trainApm r y s).slot j = s.slot j ∧ (trainApm r y s).bufferByte j = s.bufferByte j ∧
    (trainApm r y s).hashEntry j = s.hashEntry j ∧ (trainApm r y s).mixer j = s.mixer j :=
  by
  simp [State.slot, State.bufferByte, State.hashEntry, State.mixer]

/-- The APM's lookup changes `apmIdx` alone. -/
@[simp] theorem aimApm_frame (sx ctx : Word) (s : State) :
    (aimApm sx ctx s).pr = s.pr ∧ (aimApm sx ctx s).c0 = s.c0 ∧ (aimApm sx ctx s).bpos = s.bpos ∧
    (aimApm sx ctx s).c4 = s.c4 ∧ (aimApm sx ctx s).c8 = s.c8 ∧ (aimApm sx ctx s).h = s.h ∧
    (aimApm sx ctx s).pos = s.pos ∧ (aimApm sx ctx s).binCount = s.binCount ∧
    (aimApm sx ctx s).matchLen = s.matchLen ∧ (aimApm sx ctx s).matchPos = s.matchPos ∧
    (aimApm sx ctx s).ctx = s.ctx ∧ (aimApm sx ctx s).cp = s.cp ∧ (aimApm sx ctx s).mixIdx = s.mixIdx ∧
    (aimApm sx ctx s).sl = s.sl ∧ (aimApm sx ctx s).ml = s.ml ∧ (aimApm sx ctx s).mixers = s.mixers ∧
    (aimApm sx ctx s).states = s.states ∧ (aimApm sx ctx s).buffer = s.buffer ∧
    (aimApm sx ctx s).hashes = s.hashes ∧ (aimApm sx ctx s).apm = s.apm ∧ (aimApm sx ctx s).cmdIn = s.cmdIn ∧
    (aimApm sx ctx s).rsp = s.rsp :=
  by
  simp [aimApm]

@[simp] theorem aimApm_reads (sx ctx : Word) (s : State) (j : Nat) :
    (aimApm sx ctx s).slot j = s.slot j ∧ (aimApm sx ctx s).bufferByte j = s.bufferByte j ∧
    (aimApm sx ctx s).hashEntry j = s.hashEntry j ∧ (aimApm sx ctx s).mixer j = s.mixer j :=
  by
  simp [State.slot, State.bufferByte, State.hashEntry, State.mixer]

@[simp] theorem aimApm_apmCell_eq (sx ctx : Word) (s : State) (q : Rom) (j : Nat) :
    (aimApm sx ctx s).apmCell q j = s.apmCell q j :=
  by
  simp [State.apmCell]

/-- Steps 7 and 8 together changes `pr`, `apmIdx`, `apm` alone. -/
@[simp] theorem refine_frame (r : Rom) (y : Bit) (p : Prob) (s : State) :
    (refine r y p s).c0 = s.c0 ∧ (refine r y p s).bpos = s.bpos ∧ (refine r y p s).c4 = s.c4 ∧
    (refine r y p s).c8 = s.c8 ∧ (refine r y p s).h = s.h ∧ (refine r y p s).pos = s.pos ∧
    (refine r y p s).binCount = s.binCount ∧ (refine r y p s).matchLen = s.matchLen ∧
    (refine r y p s).matchPos = s.matchPos ∧ (refine r y p s).ctx = s.ctx ∧ (refine r y p s).cp = s.cp ∧
    (refine r y p s).mixIdx = s.mixIdx ∧ (refine r y p s).sl = s.sl ∧ (refine r y p s).ml = s.ml ∧
    (refine r y p s).mixers = s.mixers ∧ (refine r y p s).states = s.states ∧
    (refine r y p s).buffer = s.buffer ∧ (refine r y p s).hashes = s.hashes ∧ (refine r y p s).cmdIn = s.cmdIn ∧
    (refine r y p s).rsp = s.rsp :=
  by
  simp [refine]

@[simp] theorem refine_reads (r : Rom) (y : Bit) (p : Prob) (s : State) (j : Nat) :
    (refine r y p s).slot j = s.slot j ∧ (refine r y p s).bufferByte j = s.bufferByte j ∧
    (refine r y p s).hashEntry j = s.hashEntry j ∧ (refine r y p s).mixer j = s.mixer j :=
  by
  simp [State.slot, State.bufferByte, State.hashEntry, State.mixer]

/-- Step 2 changes `c0`, `bpos` alone. -/
@[simp] theorem foldBit_frame (y : Bit) (s : State) :
    (foldBit y s).pr = s.pr ∧ (foldBit y s).c4 = s.c4 ∧ (foldBit y s).c8 = s.c8 ∧ (foldBit y s).h = s.h ∧
    (foldBit y s).pos = s.pos ∧ (foldBit y s).binCount = s.binCount ∧ (foldBit y s).matchLen = s.matchLen ∧
    (foldBit y s).matchPos = s.matchPos ∧ (foldBit y s).ctx = s.ctx ∧ (foldBit y s).cp = s.cp ∧
    (foldBit y s).mixIdx = s.mixIdx ∧ (foldBit y s).apmIdx = s.apmIdx ∧ (foldBit y s).sl = s.sl ∧
    (foldBit y s).ml = s.ml ∧ (foldBit y s).mixers = s.mixers ∧ (foldBit y s).states = s.states ∧
    (foldBit y s).buffer = s.buffer ∧ (foldBit y s).hashes = s.hashes ∧ (foldBit y s).apm = s.apm ∧
    (foldBit y s).cmdIn = s.cmdIn ∧ (foldBit y s).rsp = s.rsp :=
  ⟨rfl, rfl, rfl, rfl, rfl, rfl, rfl, rfl, rfl, rfl, rfl, rfl, rfl, rfl, rfl, rfl, rfl, rfl, rfl, rfl, rfl⟩

@[simp] theorem foldBit_reads (y : Bit) (s : State) (j : Nat) :
    (foldBit y s).slot j = s.slot j ∧ (foldBit y s).bufferByte j = s.bufferByte j ∧
    (foldBit y s).hashEntry j = s.hashEntry j ∧ (foldBit y s).mixer j = s.mixer j :=
  ⟨rfl, rfl, rfl, rfl⟩

@[simp] theorem foldBit_apmCell_eq (y : Bit) (s : State) (q : Rom) (j : Nat) :
    (foldBit y s).apmCell q j = s.apmCell q j :=
  (rfl)

/-- Step 3a changes `pos`, `buffer` alone. -/
@[simp] theorem storeByte_frame (b : Byte) (s : State) :
    (storeByte b s).pr = s.pr ∧ (storeByte b s).c0 = s.c0 ∧ (storeByte b s).bpos = s.bpos ∧
    (storeByte b s).c4 = s.c4 ∧ (storeByte b s).c8 = s.c8 ∧ (storeByte b s).h = s.h ∧
    (storeByte b s).binCount = s.binCount ∧ (storeByte b s).matchLen = s.matchLen ∧
    (storeByte b s).matchPos = s.matchPos ∧ (storeByte b s).ctx = s.ctx ∧ (storeByte b s).cp = s.cp ∧
    (storeByte b s).mixIdx = s.mixIdx ∧ (storeByte b s).apmIdx = s.apmIdx ∧ (storeByte b s).sl = s.sl ∧
    (storeByte b s).ml = s.ml ∧ (storeByte b s).mixers = s.mixers ∧ (storeByte b s).states = s.states ∧
    (storeByte b s).hashes = s.hashes ∧ (storeByte b s).apm = s.apm ∧ (storeByte b s).cmdIn = s.cmdIn ∧
    (storeByte b s).rsp = s.rsp :=
  by
  simp [storeByte]

@[simp] theorem storeByte_reads (b : Byte) (s : State) (j : Nat) :
    (storeByte b s).slot j = s.slot j ∧ (storeByte b s).hashEntry j = s.hashEntry j ∧
    (storeByte b s).mixer j = s.mixer j :=
  by
  simp [State.slot, State.hashEntry, State.mixer]

@[simp] theorem storeByte_apmCell_eq (b : Byte) (s : State) (q : Rom) (j : Nat) :
    (storeByte b s).apmCell q j = s.apmCell q j :=
  by
  simp [State.apmCell]

/-- The end of step 3b changes `c0`, `bpos` alone. -/
@[simp] theorem startByte_frame (s : State) :
    (startByte s).pr = s.pr ∧ (startByte s).c4 = s.c4 ∧ (startByte s).c8 = s.c8 ∧ (startByte s).h = s.h ∧
    (startByte s).pos = s.pos ∧ (startByte s).binCount = s.binCount ∧ (startByte s).matchLen = s.matchLen ∧
    (startByte s).matchPos = s.matchPos ∧ (startByte s).ctx = s.ctx ∧ (startByte s).cp = s.cp ∧
    (startByte s).mixIdx = s.mixIdx ∧ (startByte s).apmIdx = s.apmIdx ∧ (startByte s).sl = s.sl ∧
    (startByte s).ml = s.ml ∧ (startByte s).mixers = s.mixers ∧ (startByte s).states = s.states ∧
    (startByte s).buffer = s.buffer ∧ (startByte s).hashes = s.hashes ∧ (startByte s).apm = s.apm ∧
    (startByte s).cmdIn = s.cmdIn ∧ (startByte s).rsp = s.rsp :=
  ⟨rfl, rfl, rfl, rfl, rfl, rfl, rfl, rfl, rfl, rfl, rfl, rfl, rfl, rfl, rfl, rfl, rfl, rfl, rfl, rfl, rfl⟩

@[simp] theorem startByte_reads (s : State) (j : Nat) :
    (startByte s).slot j = s.slot j ∧ (startByte s).bufferByte j = s.bufferByte j ∧
    (startByte s).hashEntry j = s.hashEntry j ∧ (startByte s).mixer j = s.mixer j :=
  ⟨rfl, rfl, rfl, rfl⟩

@[simp] theorem startByte_apmCell_eq (s : State) (q : Rom) (j : Nat) :
    (startByte s).apmCell q j = s.apmCell q j :=
  (rfl)

/-- Step 3c changes `mixIdx` alone. -/
@[simp] theorem selectMixer_frame (s : State) :
    (selectMixer s).pr = s.pr ∧ (selectMixer s).c0 = s.c0 ∧ (selectMixer s).bpos = s.bpos ∧
    (selectMixer s).c4 = s.c4 ∧ (selectMixer s).c8 = s.c8 ∧ (selectMixer s).h = s.h ∧
    (selectMixer s).pos = s.pos ∧ (selectMixer s).binCount = s.binCount ∧
    (selectMixer s).matchLen = s.matchLen ∧ (selectMixer s).matchPos = s.matchPos ∧
    (selectMixer s).ctx = s.ctx ∧ (selectMixer s).cp = s.cp ∧ (selectMixer s).apmIdx = s.apmIdx ∧
    (selectMixer s).sl = s.sl ∧ (selectMixer s).ml = s.ml ∧ (selectMixer s).mixers = s.mixers ∧
    (selectMixer s).states = s.states ∧ (selectMixer s).buffer = s.buffer ∧ (selectMixer s).hashes = s.hashes ∧
    (selectMixer s).apm = s.apm ∧ (selectMixer s).cmdIn = s.cmdIn ∧ (selectMixer s).rsp = s.rsp :=
  ⟨rfl, rfl, rfl, rfl, rfl, rfl, rfl, rfl, rfl, rfl, rfl, rfl, rfl, rfl, rfl, rfl, rfl, rfl, rfl, rfl, rfl, rfl⟩

@[simp] theorem selectMixer_reads (s : State) (j : Nat) :
    (selectMixer s).slot j = s.slot j ∧ (selectMixer s).bufferByte j = s.bufferByte j ∧
    (selectMixer s).hashEntry j = s.hashEntry j ∧ (selectMixer s).mixer j = s.mixer j :=
  ⟨rfl, rfl, rfl, rfl⟩

@[simp] theorem selectMixer_apmCell_eq (s : State) (q : Rom) (j : Nat) :
    (selectMixer s).apmCell q j = s.apmCell q j :=
  (rfl)

/-- Steps 3a and 3b together changes `c0`, `bpos`, `c4`, `c8`, `h`, `pos`, `binCount`, `buffer` alone. -/
@[simp] theorem absorbByte_frame (r : Rom) (b : Byte) (s : State) :
    (absorbByte r b s).pr = s.pr ∧ (absorbByte r b s).matchLen = s.matchLen ∧
    (absorbByte r b s).matchPos = s.matchPos ∧ (absorbByte r b s).ctx = s.ctx ∧ (absorbByte r b s).cp = s.cp ∧
    (absorbByte r b s).mixIdx = s.mixIdx ∧ (absorbByte r b s).apmIdx = s.apmIdx ∧ (absorbByte r b s).sl = s.sl ∧
    (absorbByte r b s).ml = s.ml ∧ (absorbByte r b s).mixers = s.mixers ∧ (absorbByte r b s).states = s.states ∧
    (absorbByte r b s).hashes = s.hashes ∧ (absorbByte r b s).apm = s.apm ∧ (absorbByte r b s).cmdIn = s.cmdIn ∧
    (absorbByte r b s).rsp = s.rsp :=
  by
  simp [absorbByte]

@[simp] theorem absorbByte_reads (r : Rom) (b : Byte) (s : State) (j : Nat) :
    (absorbByte r b s).slot j = s.slot j ∧ (absorbByte r b s).hashEntry j = s.hashEntry j ∧
    (absorbByte r b s).mixer j = s.mixer j :=
  by
  simp [State.slot, State.hashEntry, State.mixer]

@[simp] theorem absorbByte_apmCell_eq (r : Rom) (b : Byte) (s : State) (q : Rom) (j : Nat) :
    (absorbByte r b s).apmCell q j = s.apmCell q j :=
  by
  simp [State.apmCell]

/-- Step 3 changes `c0`, `bpos`, `c4`, `c8`, `h`, `pos`, `binCount`, `matchLen`, `matchPos`, `ctx`, `mixIdx`, `buffer`, `hashes` alone. -/
@[simp] theorem completeByte_frame (r : Rom) (s : State) :
    (completeByte r s).pr = s.pr ∧ (completeByte r s).cp = s.cp ∧ (completeByte r s).apmIdx = s.apmIdx ∧
    (completeByte r s).sl = s.sl ∧ (completeByte r s).ml = s.ml ∧ (completeByte r s).mixers = s.mixers ∧
    (completeByte r s).states = s.states ∧ (completeByte r s).apm = s.apm ∧ (completeByte r s).cmdIn = s.cmdIn ∧
    (completeByte r s).rsp = s.rsp :=
  by
  simp [completeByte]

@[simp] theorem completeByte_reads (r : Rom) (s : State) (j : Nat) :
    (completeByte r s).slot j = s.slot j ∧ (completeByte r s).mixer j = s.mixer j :=
  by
  simp [State.slot, State.mixer]

@[simp] theorem completeByte_apmCell_eq (r : Rom) (s : State) (q : Rom) (j : Nat) :
    (completeByte r s).apmCell q j = s.apmCell q j :=
  by
  simp [State.apmCell]

/-- Steps 2 and 3 together changes `c0`, `bpos`, `c4`, `c8`, `h`, `pos`, `binCount`, `matchLen`, `matchPos`, `ctx`, `mixIdx`, `buffer`, `hashes` alone. -/
@[simp] theorem takeBit_frame (r : Rom) (y : Bit) (s : State) :
    (takeBit r y s).pr = s.pr ∧ (takeBit r y s).cp = s.cp ∧ (takeBit r y s).apmIdx = s.apmIdx ∧
    (takeBit r y s).sl = s.sl ∧ (takeBit r y s).ml = s.ml ∧ (takeBit r y s).mixers = s.mixers ∧
    (takeBit r y s).states = s.states ∧ (takeBit r y s).apm = s.apm ∧ (takeBit r y s).cmdIn = s.cmdIn ∧
    (takeBit r y s).rsp = s.rsp :=
  by
  unfold takeBit; split <;> simp

@[simp] theorem takeBit_reads (r : Rom) (y : Bit) (s : State) (j : Nat) :
    (takeBit r y s).slot j = s.slot j ∧ (takeBit r y s).mixer j = s.mixer j :=
  by
  simp [State.slot, State.mixer]

@[simp] theorem takeBit_apmCell_eq (r : Rom) (y : Bit) (s : State) (q : Rom) (j : Nat) :
    (takeBit r y s).apmCell q j = s.apmCell q j :=
  by
  simp [State.apmCell]

/-- Steps 5 to 8 together changes `pr`, `matchLen`, `apmIdx`, `mixers`, `apm` alone. -/
@[simp] theorem predict_frame (r : Rom) (y : Bit) (s : State) :
    (predict r y s).c0 = s.c0 ∧ (predict r y s).bpos = s.bpos ∧ (predict r y s).c4 = s.c4 ∧
    (predict r y s).c8 = s.c8 ∧ (predict r y s).h = s.h ∧ (predict r y s).pos = s.pos ∧
    (predict r y s).binCount = s.binCount ∧ (predict r y s).matchPos = s.matchPos ∧
    (predict r y s).ctx = s.ctx ∧ (predict r y s).cp = s.cp ∧ (predict r y s).mixIdx = s.mixIdx ∧
    (predict r y s).sl = s.sl ∧ (predict r y s).ml = s.ml ∧ (predict r y s).states = s.states ∧
    (predict r y s).buffer = s.buffer ∧ (predict r y s).hashes = s.hashes ∧ (predict r y s).cmdIn = s.cmdIn ∧
    (predict r y s).rsp = s.rsp :=
  by
  simp [predict]

@[simp] theorem predict_reads (r : Rom) (y : Bit) (s : State) (j : Nat) :
    (predict r y s).slot j = s.slot j ∧ (predict r y s).bufferByte j = s.bufferByte j ∧
    (predict r y s).hashEntry j = s.hashEntry j :=
  by
  simp [State.slot, State.bufferByte, State.hashEntry]

end Sys2Proof.Machine
end

