-- ==== Sys2Proof/Laws/PerInstr.lean ====
section
/-! SUPPORT. Per constructor: the encoder writes exactly the words of the constructor's row of spec/opcode_table.json
(spec/30_encoding.md R88 to R90), and no other row matches them (R96: the three match and mask pairs are disjoint). -/

namespace Sys2Proof.Laws.EncodesInItsRow

/-- The word of `i` matches the row of its constructor and no other. -/
def Statement (i : Instr) : Prop :=
  match i with
  | .prob => isProbWord (encode i) = true ∧ isUpdWord (encode i) = false ∧ isInitWord (encode i) = false
  | .upd _ => isProbWord (encode i) = false ∧ isUpdWord (encode i) = true ∧ isInitWord (encode i) = false
  | .init _ _ => isProbWord (encode i) = false ∧ isUpdWord (encode i) = false ∧ isInitWord (encode i) = true

theorem prob : Statement .prob := by
  unfold Statement
  decide

theorem upd (y : Bit) : Statement (.upd y) := by
  revert y
  unfold Statement
  decide

theorem init (ss ms : BitVec 2) : Statement (.init ss ms) := by
  revert ss ms
  unfold Statement
  decide

end Sys2Proof.Laws.EncodesInItsRow
end

