-- ==== Sys2Proof/Laws/Units.lean ====
section
/-! SUPPORT. What each unit operation of `UPD` writes, once; the frames are in Laws/Frames.lean. -/

namespace Sys2Proof.Machine

variable (r : Rom) (y : Bit) (s : State)

/-! ### Numbers -/

@[simp] theorem responseWord_ok (v : Prob) : responseWord .ok v = 0#4 ++ v := by
  simp only [responseWord, errBit, codeField]; rfl

theorem Bit.toNat_le (y : Bit) : y.toNat ≤ 1 := by have := y.isLt; omega

theorem modN_eq (x : Word) : modN x = x.toNat % 2 ^ 26 := rfl

theorem modN_lt (x : Word) : modN x < bufferSize := Nat.mod_lt _ (by norm_num)

theorem statesMask_eq (sl : StoreSize) : statesMask sl = BitVec.ofNat 32 (2 ^ sl.log2 - 1) := rfl

/-- The slot index is the low `SL` bits of the sum (R63). -/
theorem slotIndex_toNat (sl : StoreSize) (c : Word) (c0 : BitVec 9) :
    (slotIndex sl c c0).toNat = (c.toNat + c0.toNat) % 2 ^ sl.log2 := by
  have h0 := c0.isLt
  have key : ∀ n : Nat, n ≤ 29 → (((c + c0.setWidth 32) &&& BitVec.ofNat 32 (2 ^ n - 1)).setWidth 29).toNat
      = (c.toNat + c0.toNat) % 2 ^ n := by
    intro n hn
    have h1 : 2 ^ n ≤ 2 ^ 29 := Nat.pow_le_pow_right (by norm_num) hn
    have h2 : 0 < 2 ^ n := Nat.two_pow_pos n
    have h3 : (2 ^ n - 1) % 2 ^ 32 = 2 ^ n - 1 := Nat.mod_eq_of_lt (by omega)
    have h4 : c0.toNat % 2 ^ 32 = c0.toNat := Nat.mod_eq_of_lt (by omega)
    have hd : (2 : Nat) ^ n ∣ 2 ^ 32 := Nat.pow_dvd_pow 2 (by omega)
    rw [BitVec.toNat_setWidth, BitVec.toNat_and, BitVec.toNat_ofNat, h3, Nat.and_two_pow_sub_one_eq_mod,
      BitVec.toNat_add, BitVec.toNat_setWidth, h4, Nat.mod_mod_of_dvd _ hd]
    exact Nat.mod_eq_of_lt (lt_of_lt_of_le (Nat.mod_lt _ h2) h1)
  cases sl <;> exact key _ (by decide)

theorem slotIndex_lt (sl : StoreSize) (c : Word) (c0 : BitVec 9) :
    (slotIndex sl c c0).toNat < 2 ^ sl.log2 := by
  rw [slotIndex_toNat]; exact Nat.mod_lt _ (Nat.two_pow_pos _)

/-- The mixer index is the low `ML` bits of `c4` (R65). -/
theorem mixerIndex_toNat (ml : PoolSize) (c4 : Word) :
    (mixerIndex ml c4).toNat = c4.toNat % 2 ^ ml.log2 := by
  have key : ∀ n : Nat, n ≤ 14 → ((c4 &&& BitVec.ofNat 32 (2 ^ n - 1)).setWidth 14).toNat
      = c4.toNat % 2 ^ n := by
    intro n hn
    have h1 : 2 ^ n ≤ 2 ^ 14 := Nat.pow_le_pow_right (by norm_num) hn
    have h2 : 0 < 2 ^ n := Nat.two_pow_pos n
    have h3 : (2 ^ n - 1) % 2 ^ 32 = 2 ^ n - 1 := Nat.mod_eq_of_lt (by omega)
    rw [BitVec.toNat_setWidth, BitVec.toNat_and, BitVec.toNat_ofNat, h3, Nat.and_two_pow_sub_one_eq_mod]
    exact Nat.mod_eq_of_lt (lt_of_lt_of_le (Nat.mod_lt _ h2) h1)
  cases ml <;> exact key _ (by decide)

theorem mixerIndex_lt (ml : PoolSize) (c4 : Word) : (mixerIndex ml c4).toNat < 2 ^ ml.log2 := by
  rw [mixerIndex_toNat]; exact Nat.mod_lt _ (Nat.two_pow_pos _)

/-! ### Step 2 and the boundary test -/

/-- Shifting left by `n` and filling the freed bits with `v` is multiplying and adding (R110, R146). -/
theorem shiftIn_toNat {w k : Nat} (a : BitVec w) (n : Nat) (v : BitVec k) (hv : v.toNat < 2 ^ n) (hk : k ≤ w) :
    (a <<< n ||| v.setWidth w).toNat = (a.toNat * 2 ^ n + v.toNat) % 2 ^ w := by
  have hv' : v.toNat < 2 ^ w := lt_of_lt_of_le v.isLt (Nat.pow_le_pow_right (by norm_num) hk)
  rw [← Nat.shiftLeft_eq, Nat.shiftLeft_add_eq_or_of_lt hv, BitVec.toNat_or, BitVec.toNat_shiftLeft,
    BitVec.toNat_setWidth, Nat.or_mod_two_pow]

/-- The folded partial byte (R110). -/
theorem foldBit_c0_toNat : (foldBit y s).c0.toNat = (s.c0.toNat * 2 + y.toNat) % 512 :=
  shiftIn_toNat s.c0 1 y y.isLt (by norm_num)

@[simp] theorem foldBit_bpos : (foldBit y s).bpos = s.bpos + 1 := (rfl)

/-- The bit completes a byte exactly when the partial byte already holds seven bits (R111). -/
theorem byteBoundary_foldBit : byteBoundary (foldBit y s) = true ↔ 128 ≤ s.c0.toNat % 256 := by
  have hy := Bit.toNat_le y
  have h0 := s.c0.isLt
  simp only [byteBoundary, BitVec.ult, foldBit_c0_toNat, BitVec.toNat_ofNat, decide_eq_true_eq]
  omega

theorem takeBit_inside (h : s.c0.toNat % 256 < 128) : takeBit r y s = foldBit y s := by
  have : ¬byteBoundary (foldBit y s) = true := by rw [byteBoundary_foldBit]; omega
  simp [takeBit, this]

theorem takeBit_boundary (h : 128 ≤ s.c0.toNat % 256) : takeBit r y s = completeByte r (foldBit y s) := by
  have : byteBoundary (foldBit y s) = true := (byteBoundary_foldBit y s).2 h
  simp [takeBit, this]

/-- After steps 2 and 3 the partial byte is a byte again (R22). -/
theorem takeBit_c0_le : (takeBit r y s).c0.toNat ≤ 255 := by
  have hy := Bit.toNat_le y
  by_cases h : 128 ≤ s.c0.toNat % 256
  · rw [takeBit_boundary r y s h]
    simp [completeByte, absorbByte, startByte]
  · rw [takeBit_inside r y s (by omega), foldBit_c0_toNat]
    omega

/-! ### Step 3 -/

@[simp] theorem storeByte_pos (b : Byte) : (storeByte b s).pos = s.pos + 1 := (rfl)

@[simp] theorem storeByte_buffer (b : Byte) :
    (storeByte b s).buffer = Store.write zeroCell s.buffer (modN s.pos) b := (rfl)

@[simp] theorem storeByte_bufferByte (b : Byte) (j : Nat) :
    (storeByte b s).bufferByte j = if modN s.pos = j then b else s.bufferByte j :=
  Store.read_write _ _ _ _

/-- What steps 3a and 3b write (R112, R113). -/
@[simp] theorem absorbByte_writes (b : Byte) :
    (absorbByte r b s).c0 = 1 ∧ (absorbByte r b s).bpos = 0 ∧ (absorbByte r b s).pos = s.pos + 1 ∧
    (absorbByte r b s).c4 = s.c4 <<< 8 ||| b.setWidth 32 ∧
    (absorbByte r b s).c8 = s.c8 <<< 8 ||| lsr s.c4 24 ∧
    (absorbByte r b s).h = r.hstep s.h (s.c4 <<< 8 ||| b.setWidth 32) ∧
    (absorbByte r b s).binCount = s.binCount + (b >>> 7).setWidth 32 ∧
    (absorbByte r b s).buffer = Store.write zeroCell s.buffer (modN s.pos) b :=
  ⟨rfl, rfl, rfl, rfl, rfl, rfl, rfl, rfl⟩

@[simp] theorem absorbByte_bufferByte (b : Byte) (j : Nat) :
    (absorbByte r b s).bufferByte j = if modN s.pos = j then b else s.bufferByte j :=
  Store.read_write _ _ _ _

@[simp] theorem selectMixer_mixIdx : (selectMixer s).mixIdx = mixerIndex s.ml s.c4 := (rfl)

@[simp] theorem recomputeContexts_ctx (k : Fin 7) : (recomputeContexts r s).ctx[k.val] = contextBase r s k := by
  simp [recomputeContexts]

/-- The bases read only `c4`, `c8`, `binCount` and `pos` (R115). -/
theorem contextBase_congr {s t : State} (h4 : t.c4 = s.c4) (h8 : t.c8 = s.c8) (hb : t.binCount = s.binCount)
    (hp : t.pos = s.pos) : contextBase r t = contextBase r s := by
  have ht : textMode t = textMode s := by simp [textMode, hb, hp]
  funext k
  fin_cases k <;> simp [contextBase, hash1, hash2, hash3, ht, h4, h8]

@[simp] theorem recordPosition_hashEntry (j : Nat) :
    (recordPosition s).hashEntry j = if s.h.toNat = j then s.pos else s.hashEntry j := by
  simp [recordPosition]

/-- What step 3 writes, the match registers apart (R111 to R116). -/
@[simp] theorem completeByte_writes :
    (completeByte r s).c0 = 1 ∧ (completeByte r s).bpos = 0 ∧ (completeByte r s).pos = s.pos + 1 ∧
    (completeByte r s).c4 = s.c4 <<< 8 ||| (completedByte s).setWidth 32 ∧
    (completeByte r s).c8 = s.c8 <<< 8 ||| lsr s.c4 24 ∧
    (completeByte r s).h = r.hstep s.h (completeByte r s).c4 ∧
    (completeByte r s).binCount = s.binCount + (completedByte s >>> 7).setWidth 32 ∧
    (completeByte r s).mixIdx = mixerIndex s.ml (completeByte r s).c4 ∧
    (completeByte r s).buffer = Store.write zeroCell s.buffer (modN s.pos) (completedByte s) := by
  simp [completeByte]

@[simp] theorem completeByte_ctx (k : Fin 7) : (completeByte r s).ctx[k.val] = contextBase r (completeByte r s) k := by
  have h : contextBase r (completeByte r s) =
      contextBase r (selectMixer (absorbByte r (completedByte s) s)) := by
    apply contextBase_congr <;> simp [completeByte]
  rw [h]
  simp [completeByte, recomputeContexts]

@[simp] theorem completeByte_bufferByte (j : Nat) :
    (completeByte r s).bufferByte j = if modN s.pos = j then completedByte s else s.bufferByte j := by
  simp [completeByte]

@[simp] theorem completeByte_hashEntry (j : Nat) :
    (completeByte r s).hashEntry j =
      if (completeByte r s).h.toNat = j then s.pos + 1 else s.hashEntry j := by
  simp [completeByte]

/-- The match registers after step 3 are those the finder leaves on the state with the byte absorbed. -/
theorem completeByte_match :
    (completeByte r s).matchLen =
      (findMatch (recomputeContexts r (selectMixer (absorbByte r (completedByte s) s)))).matchLen ∧
    (completeByte r s).matchPos =
      (findMatch (recomputeContexts r (selectMixer (absorbByte r (completedByte s) s)))).matchPos := by
  simp [completeByte]

/-! ### The match model -/

theorem matchAlive_iff : matchAlive s = true ↔ 0 < s.matchLen.toNat := by
  simp [matchAlive, BitVec.ult]

/-- The finder's two branches (R177). -/
theorem findMatch_cases :
    (0 < s.matchLen.toNat ∧ findMatch s = extendMatch s) ∨ (s.matchLen.toNat = 0 ∧ findMatch s = lookUpMatch s) := by
  by_cases h : 0 < s.matchLen.toNat
  · exact .inl ⟨h, by simp [findMatch, (matchAlive_iff s).2 h]⟩
  · exact .inr ⟨by omega, by simp [findMatch, mt (matchAlive_iff s).1 h]⟩

/-- The alive branch (R178). -/
theorem extendMatch_matchLen (h : s.matchLen.toNat ≤ maxLen) :
    (extendMatch s).matchLen.toNat = min (s.matchLen.toNat + 1) maxLen := by
  simp only [extendMatch]
  split
  · rename_i hlt
    have h1 : (1 : BitVec 7).toNat = 1 := rfl
    have hm : maxLen = 88 := rfl
    rw [BitVec.toNat_add, h1, Nat.mod_eq_of_lt (by omega)]
    omega
  · omega

@[simp] theorem extendMatch_matchPos : (extendMatch s).matchPos = s.matchPos + 1 := (rfl)

/-- What the walk counts: at most `fuel` distances from `d` on, each agreeing, and the next one not unless the fuel ran
out (R180). -/
theorem walkBack_spec (p : Word) (fuel d : Nat) :
    walkBack s p fuel d ≤ fuel ∧
    (∀ e, d ≤ e → e < d + walkBack s p fuel d → walkAgrees s p e = true) ∧
    (walkBack s p fuel d < fuel → walkAgrees s p (d + walkBack s p fuel d) = false) := by
  induction fuel generalizing d with
  | zero => exact ⟨le_rfl, fun e h1 h2 => by simp [walkBack] at h2; omega, by simp [walkBack]⟩
  | succ n ih =>
    obtain ⟨h1, h2, h3⟩ := ih (d + 1)
    by_cases hd : walkAgrees s p d = true
    · simp only [walkBack, hd, if_true]
      refine ⟨by omega, ?_, ?_⟩
      · intro e he1 he2
        rcases Nat.eq_or_lt_of_le he1 with rfl | he
        · exact hd
        · exact h2 e he (by omega)
      · intro hlt
        have := h3 (by omega)
        rwa [show d + (walkBack s p n (d + 1) + 1) = d + 1 + walkBack s p n (d + 1) by omega]
    · have h0 : walkBack s p (n + 1) d = 0 := by simp [walkBack, hd]
      rw [h0]
      exact ⟨by omega, fun e h1 h2 => by omega, fun _ => by simpa using hd⟩

/-- Steps 5's write: the length stays or falls to 0 (R185). -/
theorem killMatch_matchLen :
    (killMatch s).matchLen = if matchAgrees s = true then s.matchLen else 0 := by
  unfold killMatch
  by_cases ha : matchAgrees s = true
  · simp [ha]
  · by_cases hl : matchAlive s = true
    · simp [ha, hl]
    · have h0 : s.matchLen = 0 := by
        have := mt (matchAlive_iff s).2 hl
        apply BitVec.eq_of_toNat_eq; simp; omega
      simp [ha, hl, h0]

/-- The agreement test reads the buffer, `matchPos`, `c0` and `bpos` alone (R185). -/
theorem matchAgrees_congr {s t : State} (hb : ∀ j, t.bufferByte j = s.bufferByte j) (hm : t.matchPos = s.matchPos)
    (h0 : t.c0 = s.c0) (hp : t.bpos = s.bpos) : matchAgrees t = matchAgrees s := by
  simp [matchAgrees, expectedByte, hb, hm, h0, hp]

/-- On the first bit of a byte every expected byte agrees (R186). -/
theorem matchAgrees_start (h0 : s.c0 = 1) (hp : s.bpos = 0) : matchAgrees s = true := by
  have key : ∀ e : Byte, (e.setWidth 9 ||| 256#9) >>> 8 = 1#9 := by decide
  simp [matchAgrees, h0, hp, key]

/-! ### Step 4 -/

@[simp] theorem nextHistory_slot (k : Fin 7) (j : Nat) :
    (nextHistory r y k s).slot j =
      if s.cp[k.val].toNat = j then r.transition y (s.slot j) else s.slot j := by
  unfold nextHistory
  rw [State.slot_setSlot]
  simp only [Fin.getElem_fin]
  split
  · rename_i h; rw [h]
  · rfl

@[simp] theorem movePointer_cp (k j : Fin 7) :
    (movePointer k s).cp[j.val] = if k = j then slotIndex s.sl s.ctx[k.val] s.c0 else s.cp[j.val] := by
  simp [movePointer, Vector.getElem_set, Fin.ext_iff]

/-! ### The mixer -/

@[simp] theorem trainActiveMixer_mixer (j : Nat) :
    (trainActiveMixer y s).mixer j =
      if s.mixIdx.toNat = j then (s.mixer j).train y else s.mixer j := by
  unfold trainActiveMixer
  rw [State.mixer_setMixer]
  split
  · rename_i h; rw [h]
  · rfl

@[simp] theorem mixForward_mixer (p : Vector Word 8) (j : Nat) :
    (mixForward r p s).mixer j =
      if s.mixIdx.toNat = j then (s.mixer j).forward r p else s.mixer j := by
  unfold mixForward
  rw [State.mixer_setMixer]
  split
  · rename_i h; rw [h]
  · rfl

@[simp] theorem Mixer.forward_fields (p : Vector Word 8) (m : Mixer) :
    (m.forward r p).w = m.w ∧ (m.forward r p).skew = m.skew ∧ (m.forward r p).learnRate = m.learnRate ∧
    (m.forward r p).p = p ∧ (m.forward r p).pr = mixOutput r m p :=
  ⟨rfl, rfl, rfl, rfl, rfl⟩

/-- Training leaves the cached inputs and output (R198). -/
@[simp] theorem Mixer.train_cached (m : Mixer) : (m.train y).p = m.p ∧ (m.train y).pr = m.pr := by
  unfold Mixer.train
  split <;> simp

/-! ### The APM -/

theorem trainApmCell_apmCell (i j : Nat) :
    (trainApmCell r y i s).apmCell r j =
      if i = j then trainCell y (s.apmCell r j) else s.apmCell r j := by
  unfold trainApmCell
  rw [State.apmCell_setApmCell]
  split
  · rename_i h; rw [h]
  · rfl

/-- The training write moves exactly the pair at `apmIdx` (R219). -/
@[simp] theorem trainApm_apmCell (j : Nat) :
    (trainApm r y s).apmCell r j =
      if j = s.apmIdx.toNat ∨ j = s.apmIdx.toNat + 1 then trainCell y (s.apmCell r j) else s.apmCell r j := by
  unfold trainApm
  rw [trainApmCell_apmCell, trainApmCell_apmCell]
  by_cases h1 : s.apmIdx.toNat + 1 = j
  · subst h1; simp
  · by_cases h2 : s.apmIdx.toNat = j
    · subst h2; simp
    · simp [h1, h2, Ne.symm h1, Ne.symm h2]

/-- What steps 7 and 8 write (R217, R225). -/
theorem refine_writes (p : Prob) :
    (refine r y p s).apmIdx = apmIndex (apmContext s.c0 s.c4) (apmColumnOf (stretched r p)) ∧
    (refine r y p s).apm = (trainApm r y s).apm ∧
    (refine r y p s).pr = bias (interpolate ((refine r y p s).apmCell r (refine r y p s).apmIdx.toNat)
      ((refine r y p s).apmCell r ((refine r y p s).apmIdx.toNat + 1)) (apmWeight (stretched r p))) := by
  simp [refine, apmValue, State.apmCell, aimApm]

@[simp] theorem refine_apmCell (p : Prob) (j : Nat) :
    (refine r y p s).apmCell r j = (trainApm r y s).apmCell r j := by
  simp [State.apmCell, (refine_writes r y s p).2.1]

end Sys2Proof.Machine
end

