-- ==== Sys2Proof/Laws/Upd.lean ====
section
/-! SUPPORT. What a whole command does, from the units' lemmas: where `UPD` goes by acceptance, what its steps 4 to 8
leave of the state after step 3, and how a step reads the port. -/

namespace Sys2Proof.Machine

variable (r : Rom) (y : Bit) (s : State)

theorem updAccepted_iff : UpdAccepted s ↔ positionOverrun s = false := by
  simp [UpdAccepted, positionOverrun]

theorem updWith_accepted {s : State} (h : UpdAccepted s) : updWith r y s = (updState r y s).respond .ok 0 := by
  simp [updWith, (updAccepted_iff s).1 h]

theorem updWith_overrun {s : State} (h : ¬UpdAccepted s) : updWith r y s = s.raise .positionOverrun := by
  rw [updAccepted_iff] at h
  simp [updWith, show positionOverrun s = true by simpa using h]

theorem exec_prob : exec .prob s = .next (s.respond .ok s.pr) := rfl

theorem exec_upd : exec (.upd y) s = .next (updWith Config.rom y s) := rfl

theorem exec_init (ss ms : BitVec 2) : exec (.init ss ms) s =
    .next (State.respond { State.initial (storeSizeOf ss) (poolSizeOf ms) with cmdIn := s.cmdIn } .ok 0) := rfl

/-- No command stops: the block has no fault and no command is without a meaning (R240, R105). -/
theorem exec_completes (i : Instr) : ∃ t, exec i s = .next t := by
  rcases i with _ | y | ⟨ss, ms⟩
  · exact ⟨_, exec_prob s⟩
  · exact ⟨_, exec_upd y s⟩
  · exact ⟨_, exec_init s ss ms⟩

theorem exec_upd_accepted {y : Bit} {s : State} (h : UpdAccepted s) :
    exec (.upd y) s = .next ((updState Config.rom y s).respond .ok 0) := by
  rw [exec_upd, updWith_accepted Config.rom y h]

theorem exec_upd_overrun {y : Bit} {s : State} (h : ¬UpdAccepted s) :
    exec (.upd y) s = .next (s.raise .positionOverrun) := by
  rw [exec_upd, updWith_overrun Config.rom y h]

/-- Steps 4 to 8 and step 1 leave what steps 2 and 3 wrote. -/
@[simp] theorem updState_taken :
    (updState r y s).c0 = (takeBit r y (trainActiveMixer y s)).c0 ∧
    (updState r y s).bpos = (takeBit r y (trainActiveMixer y s)).bpos ∧
    (updState r y s).c4 = (takeBit r y (trainActiveMixer y s)).c4 ∧
    (updState r y s).c8 = (takeBit r y (trainActiveMixer y s)).c8 ∧
    (updState r y s).h = (takeBit r y (trainActiveMixer y s)).h ∧
    (updState r y s).pos = (takeBit r y (trainActiveMixer y s)).pos ∧
    (updState r y s).binCount = (takeBit r y (trainActiveMixer y s)).binCount ∧
    (updState r y s).matchPos = (takeBit r y (trainActiveMixer y s)).matchPos ∧
    (updState r y s).ctx = (takeBit r y (trainActiveMixer y s)).ctx ∧
    (updState r y s).mixIdx = (takeBit r y (trainActiveMixer y s)).mixIdx ∧
    (updState r y s).buffer = (takeBit r y (trainActiveMixer y s)).buffer ∧
    (updState r y s).hashes = (takeBit r y (trainActiveMixer y s)).hashes ∧
    (updState r y s).sl = s.sl ∧ (updState r y s).ml = s.ml ∧ (updState r y s).cmdIn = s.cmdIn ∧
    (updState r y s).rsp = s.rsp := by
  simp [updState]

@[simp] theorem updState_taken_reads (j : Nat) :
    (updState r y s).bufferByte j = (takeBit r y (trainActiveMixer y s)).bufferByte j ∧
    (updState r y s).hashEntry j = (takeBit r y (trainActiveMixer y s)).hashEntry j := by
  simp [updState]

/-- The slots and pointers of an `UPD` are those step 4 leaves (R117). -/
theorem updState_advanced :
    (updState r y s).cp = (advanceHistories r y (takeBit r y (trainActiveMixer y s))).cp ∧
    (updState r y s).states = (advanceHistories r y (takeBit r y (trainActiveMixer y s))).states := by
  simp [updState]

theorem updState_slot (j : Nat) :
    (updState r y s).slot j = (advanceHistories r y (takeBit r y (trainActiveMixer y s))).slot j := by
  simp [updState]

/-- The match length after an `UPD`: that of steps 2 and 3, unless the agreement test fails (R185). -/
theorem updState_matchLen :
    (updState r y s).matchLen =
      if matchAgrees (updState r y s) = true then (takeBit r y (trainActiveMixer y s)).matchLen else 0 := by
  have h : matchAgrees (advanceHistories r y (takeBit r y (trainActiveMixer y s))) = matchAgrees (updState r y s) :=
    matchAgrees_congr (by simp) (by simp) (by simp) (by simp)
  rw [← h]
  simp [updState, predict, killMatch_matchLen]

/-- The mixer pool after an `UPD`: the record active on entry is trained, and the one active after step 3 runs the
forward pass on the gathered inputs (R119, R122). -/
theorem updState_mixer (j : Nat) :
    (updState r y s).mixer j =
      if (updState r y s).mixIdx.toNat = j then
        ((trainActiveMixer y s).mixer j).forward r
          (gatherInputs r (advanceHistories r y (takeBit r y (trainActiveMixer y s))))
      else (trainActiveMixer y s).mixer j := by
  simp [updState, predict]

/-- The APM and the prediction after an `UPD` (R120, R121). -/
theorem updState_refined :
    (updState r y s).apmIdx = apmIndex (apmContext (updState r y s).c0 (updState r y s).c4)
      (apmColumnOf (stretched r ((updState r y s).mixer (updState r y s).mixIdx.toNat).pr)) ∧
    (updState r y s).pr = bias (interpolate ((updState r y s).apmCell r (updState r y s).apmIdx.toNat)
      ((updState r y s).apmCell r ((updState r y s).apmIdx.toNat + 1))
      (apmWeight (stretched r ((updState r y s).mixer (updState r y s).mixIdx.toNat).pr))) := by
  set u := advanceHistories r y (takeBit r y (trainActiveMixer y s)) with hu
  have hs : updState r y s = refine r y ((mixForward r (gatherInputs r u) (killMatch u)).mixer
      (mixForward r (gatherInputs r u) (killMatch u)).mixIdx.toNat).pr
      (mixForward r (gatherInputs r u) (killMatch u)) := rfl
  have hm : ((updState r y s).mixer (updState r y s).mixIdx.toNat).pr =
      ((mixForward r (gatherInputs r u) (killMatch u)).mixer
        (mixForward r (gatherInputs r u) (killMatch u)).mixIdx.toNat).pr := by
    rw [hs]; simp
  rw [hm]
  obtain ⟨h1, -, h3⟩ := refine_writes r y (mixForward r (gatherInputs r u) (killMatch u))
    ((mixForward r (gatherInputs r u) (killMatch u)).mixer
      (mixForward r (gatherInputs r u) (killMatch u)).mixIdx.toNat).pr
  rw [← hs] at h1 h3
  refine ⟨?_, h3⟩
  have e0 : (updState r y s).c0 = (mixForward r (gatherInputs r u) (killMatch u)).c0 := by
    rw [hs, (refine_frame r y _ _).1]
  have e4 : (updState r y s).c4 = (mixForward r (gatherInputs r u) (killMatch u)).c4 := by
    rw [hs, (refine_frame r y _ _).2.2.1]
  rw [h1, e0, e4]

@[simp] theorem updState_apmCell (j : Nat) :
    (updState r y s).apmCell r j =
      if j = s.apmIdx.toNat ∨ j = s.apmIdx.toNat + 1 then trainCell y (s.apmCell r j) else s.apmCell r j := by
  rw [updState, predict, refine_apmCell, trainApm_apmCell]
  simp

/-! ### The port -/

@[simp] theorem withStream_cmdIn (ws : List Byte) : (s.withStream ws).cmdIn = ws := (rfl)

@[simp] theorem withStream_withStream (ws vs : List Byte) : (s.withStream ws).withStream vs = s.withStream vs := (rfl)

@[simp] theorem withStream_self : s.withStream s.cmdIn = s := (rfl)

theorem step_waiting {s : State} (h : s.cmdIn = []) : step s = .next s := by
  simp [step, takeCommand, h]

theorem step_word {s : State} {w : Byte} {rest : List Byte} (h : s.cmdIn = w :: rest) :
    step s = match decode w with
      | some i => exec i (s.withStream rest)
      | none => .next (refuseWord (s.withStream rest)) := by
  have ht : takeCommand s = some (w, s.withStream rest) := by
    unfold takeCommand
    rw [h]
  cases hd : decode w <;> simp [step, ht, hd]

/-- The host's run goes by the outcome of its first step. -/
theorem Core.run_outcome (M : Host.Core) (n : Nat) (s : M.State) :
    (∀ t, M.step s = .next t → M.run (n + 1) s = M.run n t) ∧
    (∀ f, M.step s = .fault f → M.run (n + 1) s = .fault f) ∧
    (∀ q, M.step s = .refused q → M.run (n + 1) s = .refused q) := by
  refine ⟨fun t h => ?_, fun f h => ?_, fun q h => ?_⟩ <;> simp [Host.Core.run, h]

/-- The model's `steps` is the host's `run` of the machine behind its interface. -/
theorem run_core (n : Nat) (s : State) : Host.Core.run Sys2Proof.core n s = steps n s := by
  induction n generalizing s with
  | zero => rfl
  | succ n ih =>
    obtain ⟨h1, -, h3⟩ := Core.run_outcome Sys2Proof.core n s
    cases h : step s with
    | next t => exact (h1 t h).trans ((ih t).trans (by rw [steps, h]))
    | fault f => cases f
    | refused q => exact (h3 q h).trans (by simp only [steps, h]; rfl)

theorem steps_succ {n : Nat} {s t : State} (h : step s = .next t) : steps (n + 1) s = steps n t := by
  rw [steps, h]

/-- Every step completes (R240). -/
theorem step_completes (s : State) : ∃ t, step s = .next t := by
  rcases hc : s.cmdIn with _ | ⟨w, rest⟩
  · exact ⟨_, step_waiting hc⟩
  · rw [step_word hc]
    cases decode w with
    | none => exact ⟨_, rfl⟩
    | some i => exact exec_completes _ i

/-- What a step can do (R85): wait, refuse an illegal word, or execute a command on the state with its word taken. -/
theorem step_cases {s t : State} (h : step s = .next t) :
    (s.cmdIn = [] ∧ t = s) ∨
    (∃ w rest, s.cmdIn = w :: rest ∧ decode w = none ∧ t = refuseWord (s.withStream rest)) ∨
    (∃ w rest i, s.cmdIn = w :: rest ∧ decode w = some i ∧ exec i (s.withStream rest) = .next t) := by
  rcases hc : s.cmdIn with _ | ⟨w, rest⟩
  · rw [step_waiting hc] at h
    exact .inl ⟨rfl, by injection h with h; exact h.symm⟩
  · rw [step_word hc] at h
    rcases hd : decode w with _ | i
    · rw [hd] at h
      exact .inr (.inl ⟨w, rest, rfl, hd, by injection h with h; exact h.symm⟩)
    · rw [hd] at h
      exact .inr (.inr ⟨w, rest, i, rfl, hd, h⟩)

/-- What a command can do: `PROB` and an overrunning `UPD` only respond, an accepted `UPD` runs its steps, `INIT`
resets (R105). -/
theorem exec_cases {i : Instr} {s t : State} (h : exec i s = .next t) :
    (i = .prob ∧ t = s.respond .ok s.pr) ∨
    (∃ y, i = .upd y ∧ ¬UpdAccepted s ∧ t = s.raise .positionOverrun) ∨
    (∃ y, i = .upd y ∧ UpdAccepted s ∧ t = (updState Config.rom y s).respond .ok 0) ∨
    (∃ ss ms, i = .init ss ms ∧
      t = State.respond { State.initial (storeSizeOf ss) (poolSizeOf ms) with cmdIn := s.cmdIn } .ok 0) := by
  rcases i with _ | y | ⟨ss, ms⟩
  · rw [exec_prob] at h
    exact .inl ⟨rfl, by injection h with h; exact h.symm⟩
  · by_cases ha : UpdAccepted s
    · rw [exec_upd_accepted ha] at h
      exact .inr (.inr (.inl ⟨y, rfl, ha, by injection h with h; exact h.symm⟩))
    · rw [exec_upd_overrun ha] at h
      exact .inr (.inl ⟨y, rfl, ha, by injection h with h; exact h.symm⟩)
  · rw [exec_init] at h
    exact .inr (.inr (.inr ⟨ss, ms, rfl, by injection h with h; exact h.symm⟩))

/-- No command touches the words the host has still to present (R74, R85). -/
theorem exec_cmdIn {i : Instr} {s t : State} (h : exec i s = .next t) : t.cmdIn = s.cmdIn := by
  rcases exec_cases h with ⟨-, rfl⟩ | ⟨y, -, -, rfl⟩ | ⟨y, -, -, rfl⟩ | ⟨ss, ms, -, rfl⟩ <;> simp [State.raise]

@[simp] theorem State.bitCount_respond (c : ResponseCode) (v : Prob) : (s.respond c v).bitCount = s.bitCount := by
  simp [State.bitCount]

@[simp] theorem State.bitCount_withStream (ws : List Byte) : (s.withStream ws).bitCount = s.bitCount := (rfl)

/-- What every step keeps: a property that the ports do not enter, that a reset state has and that an accepted `UPD`
keeps. -/
theorem step_preserves {P : State → Prop} (hport : ∀ s ws a, P s → P (s.withPorts ws a))
    (hinit : ∀ sl ml, P (State.initial sl ml))
    (hupd : ∀ y s, UpdAccepted s → P s → P (updState Config.rom y s)) {s t : State} (hs : P s)
    (h : step s = .next t) : P t := by
  rcases step_cases h with ⟨-, rfl⟩ | ⟨w, rest, -, -, rfl⟩ | ⟨w, rest, i, -, -, he⟩
  · exact hs
  · exact hport s rest _ hs
  · rcases exec_cases he with ⟨-, rfl⟩ | ⟨y, -, -, rfl⟩ | ⟨y, -, ha, rfl⟩ | ⟨ss, ms, -, rfl⟩
    · exact hport s rest _ hs
    · exact hport s rest _ hs
    · exact hport _ (updState Config.rom y (s.withStream rest)).cmdIn _ (hupd y _ ha (hport s rest s.rsp hs))
    · exact hport (State.initial (storeSizeOf ss) (poolSizeOf ms)) rest _ (hinit _ _)

end Sys2Proof.Machine
end

