-- ==== Sys2Proof/Laws/Ports.lean ====
section
/-! SUPPORT. The ports do not enter a command (spec/40_commands.md R126): every operation of `UPD` commutes with
replacing their contents. -/

namespace Sys2Proof.Machine

variable (r : Rom) (y : Bit) (s : State) (ws : List Byte) (a : Option (BitVec 16))

@[simp] theorem State.withPorts_cmdIn : (s.withPorts ws a).cmdIn = ws := (rfl)

@[simp] theorem State.withPorts_rsp : (s.withPorts ws a).rsp = a := (rfl)

theorem State.withPorts_mixIdx : (s.withPorts ws a).mixIdx = s.mixIdx := (rfl)

theorem State.withPorts_apmIdx : (s.withPorts ws a).apmIdx = s.apmIdx := (rfl)

theorem State.withPorts_c0 : (s.withPorts ws a).c0 = s.c0 := (rfl)

theorem State.withPorts_c4 : (s.withPorts ws a).c4 = s.c4 := (rfl)

theorem State.withPorts_mixer (j : Nat) : (s.withPorts ws a).mixer j = s.mixer j := (rfl)

theorem State.withPorts_apmCell (j : Nat) : (s.withPorts ws a).apmCell r j = s.apmCell r j := (rfl)

theorem State.withPorts_setMixer (j : Nat) (m : Mixer) :
    (s.withPorts ws a).setMixer j m = (s.setMixer j m).withPorts ws a := (rfl)

theorem State.withPorts_setApmCell (j : Nat) (c : Cell16) :
    (s.withPorts ws a).setApmCell r j c = (s.setApmCell r j c).withPorts ws a := (rfl)

theorem State.withPorts_setPr (x : Prob) :
    ({ s.withPorts ws a with pr := x } : State) = State.withPorts { s with pr := x } ws a := (rfl)

theorem updAccepted_withPorts : UpdAccepted (s.withPorts ws a) ↔ UpdAccepted s := Iff.rfl

theorem trainActiveMixer_withPorts :
    trainActiveMixer y (s.withPorts ws a) = (trainActiveMixer y s).withPorts ws a := by
  rw [trainActiveMixer, State.withPorts_mixIdx, State.withPorts_mixer, State.withPorts_setMixer, trainActiveMixer]

theorem walkBack_withPorts (p : Word) (fuel d : Nat) : walkBack (s.withPorts ws a) p fuel d = walkBack s p fuel d := by
  induction fuel generalizing d with
  | zero => rfl
  | succ n ih => simp only [walkBack, ih]; rfl

theorem findMatch_withPorts : findMatch (s.withPorts ws a) = (findMatch s).withPorts ws a := by
  have hl : lookUpMatch (s.withPorts ws a) = (lookUpMatch s).withPorts ws a := by
    have hh : (s.withPorts ws a).hashEntry (s.withPorts ws a).h.toNat = s.hashEntry s.h.toNat := rfl
    have hc : ∀ p, candidateOk (s.withPorts ws a) p = candidateOk s p := fun _ => rfl
    simp only [lookUpMatch, hh, hc, walkBack_withPorts]
    split <;> rfl
  have ha : matchAlive (s.withPorts ws a) = matchAlive s := rfl
  simp only [findMatch, ha, hl]
  split <;> rfl

theorem takeBit_withPorts : takeBit r y (s.withPorts ws a) = (takeBit r y s).withPorts ws a := by
  have hb : byteBoundary (foldBit y (s.withPorts ws a)) = byteBoundary (foldBit y s) := rfl
  have hv : recomputeContexts r (selectMixer (absorbByte r (completedByte (foldBit y (s.withPorts ws a)))
        (foldBit y (s.withPorts ws a)))) =
      (recomputeContexts r (selectMixer (absorbByte r (completedByte (foldBit y s)) (foldBit y s)))).withPorts ws a :=
    rfl
  simp only [takeBit, hb, completeByte, hv, findMatch_withPorts]
  split <;> rfl

theorem advanceHistories_withPorts :
    advanceHistories r y (s.withPorts ws a) = (advanceHistories r y s).withPorts ws a := by
  have hn : ∀ (k : Fin 7) (t : State), nextHistory r y k (t.withPorts ws a) = (nextHistory r y k t).withPorts ws a :=
    fun _ _ => rfl
  have hm : ∀ (k : Fin 7) (t : State), movePointer k (t.withPorts ws a) = (movePointer k t).withPorts ws a :=
    fun _ _ => rfl
  simp only [advanceHistories, lanes, List.foldl, hn, hm]

theorem killMatch_withPorts : killMatch (s.withPorts ws a) = (killMatch s).withPorts ws a := by
  have h : (matchAlive (s.withPorts ws a) && !matchAgrees (s.withPorts ws a)) = (matchAlive s && !matchAgrees s) := rfl
  simp only [killMatch, h]
  split <;> rfl

theorem gatherInputs_withPorts : gatherInputs r (s.withPorts ws a) = gatherInputs r s := (rfl)

theorem mixForward_withPorts (p : Vector Word 8) :
    mixForward r p (s.withPorts ws a) = (mixForward r p s).withPorts ws a := by
  rw [mixForward, State.withPorts_mixIdx, State.withPorts_mixer, State.withPorts_setMixer, mixForward]

theorem trainApm_withPorts : trainApm r y (s.withPorts ws a) = (trainApm r y s).withPorts ws a := by
  have h : ∀ (i : Nat) (t : State),
      trainApmCell r y i (t.withPorts ws a) = (trainApmCell r y i t).withPorts ws a := fun i t => by
    rw [trainApmCell, State.withPorts_apmCell, State.withPorts_setApmCell, trainApmCell]
  rw [trainApm, h, h, State.withPorts_apmIdx, trainApm]

theorem aimApm_withPorts (x c : Word) : aimApm x c (s.withPorts ws a) = (aimApm x c s).withPorts ws a := (rfl)

theorem apmValue_withPorts (x : Word) : apmValue r x (s.withPorts ws a) = apmValue r x s := (rfl)

theorem refine_eq (p : Prob) : refine r y p s =
    { aimApm (stretched r p) (apmContext s.c0 s.c4) (trainApm r y s) with
      pr := bias (apmValue r (stretched r p) (aimApm (stretched r p) (apmContext s.c0 s.c4) (trainApm r y s))) } :=
  (rfl)

theorem refine_withPorts (p : Prob) : refine r y p (s.withPorts ws a) = (refine r y p s).withPorts ws a := by
  rw [refine_eq, refine_eq, trainApm_withPorts, aimApm_withPorts, apmValue_withPorts, State.withPorts_c0,
    State.withPorts_c4, State.withPorts_setPr]

theorem predict_withPorts : predict r y (s.withPorts ws a) = (predict r y s).withPorts ws a := by
  rw [predict, killMatch_withPorts, gatherInputs_withPorts, mixForward_withPorts, State.withPorts_mixer,
    State.withPorts_mixIdx, refine_withPorts, predict]

/-- Steps 1 to 8 of `UPD` neither read nor write the ports. -/
theorem updState_withPorts : updState r y (s.withPorts ws a) = (updState r y s).withPorts ws a := by
  rw [updState, trainActiveMixer_withPorts, takeBit_withPorts, advanceHistories_withPorts, predict_withPorts, updState]

end Sys2Proof.Machine
end

