-- ==== Sys2Proof/Tests/Fixture.lean ====
section
/-! SUPPORT. What the tests run on: the two invented fixture tables of spec/95_test_vectors.md section 2 (not the
reference's), and a few small states built from the reset state. -/

namespace Sys2Proof.Tests

open Machine

/-- `Tfix`. -/
def transitionFix (b : Bit) (s : Byte) : Byte :=
  if 252#8 < s then 0
  else if s = 0 then (if b = 1 then 127 else 125)
  else if b = 1 then (if s < 252#8 then s + 1 else 252)
  else (if s ≤ 1#8 then 1 else s - 1)

/-- `Mfix`. -/
def stateMapFix (k : Fin 7) (s : Byte) : Word :=
  if s = 0 ∨ 252#8 < s then 0
  else BitVec.ofInt 32 (max (-2047) (min 2047 (((s.toNat : Int) - 126) * (16 + 4 * k.val))))

/-- The defaults over the fixture tables. -/
def romFix : Rom := romWithDefaults transitionFix stateMapFix

/-- A state in the middle of a byte, with `c0` and `bpos` given. -/
def atBit (c0 : BitVec 9) (bpos : BitVec 4) : State := { State.reset with c0 := c0, bpos := bpos }

/-- The constructed state of section 3.3: the next bit would complete byte number `2^31`. -/
def atOverrun : State := { atBit 200 7 with pos := 0x7FFFFFFF }

/-- A state about to complete a byte, with a live match of length `n`. -/
def withMatch (c0 : BitVec 9) (n : BitVec 7) : State := { atBit c0 7 with matchLen := n, pos := 2 }

/-- A good state whose live match agrees so far and whose expected byte `0x01` the bit 0 will miss in bit 0. -/
def nearMiss : State := { withMatch 128 1 with buffer := [(0, 1)] }

/-- A state about to complete a first byte 0 whose hash entry names position 1. -/
def withCandidate : State := { atBit 128 7 with hashes := [((Config.hstep 0 0).toNat, 1)] }

theorem counterInv_reset : CounterInv State.reset := by
  constructor <;> decide

theorem counterInv_nearMiss : CounterInv nearMiss := by
  constructor <;> decide

theorem matchInv_nearMiss : MatchInv nearMiss := by
  refine ⟨by decide, fun _ => by decide, fun _ => by decide, fun i => ?_⟩
  show (0#32).toNat ≤ _
  decide

theorem indexInv_reset : IndexInv State.reset := by
  refine ⟨fun k => .inr ?_, by decide, by decide, by decide, .inl (by decide)⟩
  revert k
  decide

theorem memoryInv_reset (r : Rom) : MemoryInv r State.reset :=
  ⟨Store.wf_nil _, Store.wf_nil _, Store.wf_nil _, Store.wf_nil _, Store.wf_nil _⟩

theorem rateInv_reset : RateInv State.reset := fun _ => by
  show endRate.toNat ≤ beginRate.toNat ∧ beginRate.toNat ≤ beginRate.toNat
  decide

end Sys2Proof.Tests
end

