-- ==== Sys2Proof/Tests/Slice0.lean ====
section
/-! SUPPORT. The model's own tests. Every expected value is one the spec states (the section of
spec/95_test_vectors.md, or the rule, is named). -/

namespace Sys2Proof.Tests

open Machine

/-! ### WellFormed: each of the three row checks refuses its ill-formed words (3.1) -/

theorem test_prob_row_refuses : isProbWord 0x01 = false ∧ isProbWord 0x3F = false ∧ isProbWord 0x00 = true := by decide

theorem test_upd_row_refuses :
    isUpdWord 0x42 = false ∧ isUpdWord 0x7F = false ∧ isUpdWord 0x60 = false ∧ isUpdWord 0x41 = true := by decide

theorem test_init_row_refuses :
    isInitWord 0x81 = false ∧ isInitWord 0x82 = false ∧ isInitWord 0xBF = false ∧ isInitWord 0xBC = true := by decide

theorem test_no_row_takes_op_three : legalWord 0xC0 = false ∧ legalWord 0xFF = false ∧ legalWord 0xD5 = false := by
  decide

/-! ### Decode (3.1; the words bit by bit from R87's table) -/

theorem test_decode_prob : decode 0b00000000#8 = some .prob := by decide

theorem test_decode_upd : decode 0b01000000#8 = some (.upd 0) ∧ decode 0b01000001#8 = some (.upd 1) := by decide

theorem test_decode_init :
    decode 0b10000100#8 = some (.init 0 1) ∧ decode 0b10001100#8 = some (.init 0 3) ∧
    decode 0b10010000#8 = some (.init 1 0) ∧ decode 0b10101000#8 = some (.init 2 2) := by decide

theorem test_decode_refuses :
    decode 0x01 = none ∧ decode 0x42 = none ∧ decode 0x81 = none ∧ decode 0xBF = none ∧ decode 0xFF = none := by decide

theorem test_table_words :
    decodeTableWord 8 0 = some .prob ∧ decodeTableWord 8 0x41 = some (.upd 1) ∧
    decodeTableWord 8 0xA8 = some (.init 2 2) ∧ decodeTableWord 8 0xC0 = none := by decide

theorem test_byte_expansion :
    (byteCommands 0x61).map encode = [0x40, 0x41, 0x41, 0x40, 0x40, 0x40, 0x40, 0x41] := by decide

/-! ### One step -/

/-- Power-on, `PROB` answers `0x0800` (P1). -/
theorem test_prob_after_reset :
    step (State.reset.withFetchWord 8 0x00) = .next { State.reset with rsp := some 0x0800 } := rfl

/-- `INIT 3, 0` in the overrun state leaves the reset state with `SL = 29` and `ML = 9` (P1, 3.3). -/
theorem test_init_clears :
    step (atOverrun.withFetchWord 8 0xB0) = .next { State.initial .sl29 .ml9 with rsp := some 0x0000 } := rfl

/-- An illegal word in the overrun state answers `0x9000` (3.3, priority). -/
theorem test_illegal_before_overrun :
    step (atOverrun.withFetchWord 8 0xC0) = .next { atOverrun with rsp := some 0x9000 } := rfl

/-- `UPD 1` in the overrun state answers `0xA000` and changes nothing (3.3). -/
theorem test_upd_overrun :
    step (atOverrun.withFetchWord 8 0x41) = .next { atOverrun with rsp := some 0xA000 } := rfl

/-- The word `0x41` right after reset runs `UPD 1`. -/
theorem test_upd_runs : step (State.reset.withFetchWord 8 0x41) = exec (.upd 1) State.reset := rfl

/-- P2: seven pointers on one slot advance it seven times, to 133 after `UPD 1` and 119 after `UPD 0`. -/
theorem test_upd_coinciding_pointers :
    (updState romFix 1 State.reset).states = [(0, 133)] ∧ (updState romFix 0 State.reset).states = [(0, 119)] := by
  decide +kernel

/-- P2: the registers and the training that depend on no table. -/
theorem test_upd_first_bit :
    (updState romFix 1 State.reset).c0 = 3 ∧ (updState romFix 1 State.reset).cp = Vector.replicate 7 3 ∧
    (State.reset.mixer 0).train 1 = { Mixer.initial with skew := 122880, learnRate := 7679 } ∧
    (trainApm romFix 1 State.reset).apm = [(0, 512), (1, 543)] ∧
    (trainApm romFix 0 State.reset).apm = [(1, 31)] := by
  decide +kernel

/-! ### Unit vectors -/

/-- 3.5. -/
theorem test_hashes :
    hashTPAQ 1 2 = 0x05FBF8FA ∧ hashTPAQ 0xFFFFFFFF 0 = 0xF1E4216B ∧ hashTPAQ hashC 0x80000000 = 0xDEF13C15 ∧
    addContext 3 0x12345678 = 0x8209B612 ∧ addContext 6 0xFFFFFFFF = 0xA71D22FD ∧ rot16 0x80000001 = 0x00018000 ∧
    hstepDefault 0x0B6F12 0x616263 = 0x22C4C3 := by
  decide +kernel

/-- 3.5: an arithmetic shift of `c8`, and the two bases of the twelve-byte stream that use it or `h3`. -/
theorem test_contexts_text_mode :
    let s := { State.reset with c4 := 0x090A0B0C, c8 := 0xE9060708, pos := 12, binCount := 1 }
    hash2 s = 0xFFFFE906 ∧ contextBase romFix s 0 = 0x6DC39EA0 ∧ contextBase romFix s 4 = 0x29151E01 ∧
    contextBase romFix s 6 = 0xD69EA22F ∧ mixerIndex .ml12 s.c4 = 2828 := by
  decide +kernel

/-- R150's example. -/
theorem test_contexts_binary_mode :
    let s := { State.reset with c4 := 0x626364E9, c8 := 0x61, pos := 5, binCount := 1 }
    hash1 s = 0x6263 ∧ hash3 s = 0x62630000 ∧ contextBase romFix s 0 = 0xB6D7EF1F ∧
    contextBase romFix s 6 = 0x511F7D37 := by
  decide +kernel

/-- 3.4, the table of `MOVE`. -/
theorem test_slot_index :
    slotIndex .sl28 0xE982C43F 1 = 0x982C440 ∧ slotIndex .sl26 0xE982C43F 1 = 0x182C440 ∧
    slotIndex .sl28 0x0FFFFFFF 2 = 1 ∧ slotIndex .sl26 0xFFFFFFFF 255 = 0xFE ∧ slotIndex .sl29 0xFFFFFFFF 1 = 0 := by
  decide +kernel

/-- 3.6: the unwritten-buffer corner, all 88 comparisons succeed. -/
theorem test_match_walk_cap :
    (lookUpMatch { State.reset with pos := 2, hashes := [(0, 1)] }).matchLen = 88 ∧
    (lookUpMatch { State.reset with pos := 2, hashes := [(0, 1)] }).matchPos = 1 := by
  decide +kernel

/-- 3.6: the match input for `E = 0x68` at `bpos` 0, 1 and after a wrong first bit. -/
theorem test_match_input :
    let s := { State.reset with matchLen := 5, matchPos := 5, buffer := [(5, 0x68)] }
    matchInput s = -320#32 ∧ matchInput { s with c0 := 2, bpos := 1 } = 320 ∧
    matchInput { s with c0 := 3, bpos := 1 } = 0 ∧ (killMatch { s with c0 := 3, bpos := 1 }).matchLen = 0 := by
  decide +kernel

/-- 3.7: the third row of each mixer table. -/
theorem test_mixer :
    let p : Vector Word 8 := #v[100, -200#32, 300, 0, 0, 0, 0, 640]
    mixOutput romFix Mixer.initial p = 2098 ∧
    ({ Mixer.initial with p := p, pr := 2098 } : Mixer).train 1 =
      { w := #v[2413, 1316, 3145, 2048, 2048, 2048, 2048, 4389], skew := 119880, p := p, learnRate := 7679,
        pr := 2098 } := by
  decide +kernel

/-- 3.7 and 3.9. -/
theorem test_tables :
    squashDefault (-2048#32) = 0 ∧ squashDefault (-1#32) = 2043 ∧ squashDefault 13 = 2098 ∧
    squashDefault 2048 = 4095 ∧ stretchDefault 4 = -1770#32 ∧ bias 2047 = 2046 ∧ bias 2048 = 2048 ∧ bias 4095 = 4095 := by
  decide +kernel

/-- 3.8: a reset column, a trained cell each way, and the interpolation of the second call. -/
theorem test_apm :
    apmReset romFix 115 = 32752 ∧ trainCell 1 32752 = 33008 ∧ trainCell 0 47904 = 47529 ∧
    apmColumnOf 258 = 18 ∧ apmWeight 258 = 2 ∧ interpolate 47904 53568 2 = 2999 ∧ apmWeight (-292#32) = 92 := by
  decide +kernel

/-- 1.3. -/
theorem test_hints :
    storeSelector (some 67108864) = 3 ∧ storeSelector (some 67108863) = 2 ∧ storeSelector (some 1048575) = 0 ∧
    poolSelector (some 8388607) = 2 ∧ poolSelector (some 1048576) = 1 ∧ storeSelector none = 2 := by
  decide

end Sys2Proof.Tests
end

