-- ==== Sys2Proof/Tests/Witnesses.lean ====
section
/-! SUPPORT. For every statement with hypotheses, concrete inputs that meet all of them, one theorem a statement
(`witness_<its name>`), at the boundary values of each clause. -/

namespace Sys2Proof.Tests

open Machine

/-! ### Encoding and steps -/

theorem witness_DecodeOfEncodeIsTheCommand : (Instr.init 3 3).WellFormed = true := rfl

theorem witness_EncodeOfDecodeIsTheWord : decode 0xBC = some (.init 3 3) := by decide

theorem witness_StepRunsTheDecodedCommand :
    (State.reset.withStream [0x41, 0x00]).cmdIn = [0x41, 0x00] ∧ decode 0x41 = some (.upd 1) ∧
    (Instr.upd 1).WellFormed = true := ⟨rfl, by decide, rfl⟩

theorem witness_StepRefusesIllegalWord :
    (State.reset.withStream [0x01, 0x00]).cmdIn = [0x01, 0x00] ∧ legalWord 0x01 = false ∧
    ∃ t, step (State.reset.withStream [0x01, 0x00]) = .next t ∧ t.rsp = some 0x9000 := ⟨rfl, by decide, _, rfl, rfl⟩

theorem witness_StepWaitsWithoutCommand : State.reset.cmdIn = [] := rfl

theorem witness_IllegalWordsLeaveNoTrace :
    [0x01#8, 0x42#8, 0x81#8, 0xFF#8] ≠ [] ∧ ∀ w ∈ [0x01#8, 0x42#8, 0x81#8, 0xFF#8], legalWord w = false := by decide

theorem witness_CommandsIgnoreThePorts : ∃ t, exec (.upd 1) State.reset = .next t := ⟨_, rfl⟩

theorem witness_InitForgetsThePreviousState : State.reset.cmdIn = atOverrun.cmdIn ∧ State.reset ≠ atOverrun := by
  decide

/-! ### `UPD`: acceptance -/

/-- One bit below each end of the position, and at reset. -/
theorem witness_UpdCompletesWhenAccepted :
    UpdAccepted State.reset ∧ UpdAccepted { atBit 100 6 with pos := 0x7FFFFFFF } ∧
    UpdAccepted { atBit 200 7 with pos := 0x7FFFFFFE } := by
  unfold UpdAccepted
  decide

theorem witness_UpdOverrunIsRefused :
    atOverrun.bpos = 7 ∧ atOverrun.pos = 0x7FFFFFFF ∧
    ∃ t, exec (.upd 1) atOverrun = .next t ∧ t.rsp = some 0xA000 := ⟨by decide, by decide, _, rfl, rfl⟩

/-- Each clause's premise, in a state inside a byte and in one whose completed byte changes the active record. -/
theorem witness_UpdLeavesEverythingElse :
    UpdAccepted (atBit 3 1) ∧ (∀ k : Fin 7, (atBit 3 1).cp[k].toNat ≠ 1) ∧ (atBit 3 1).c0.toNat < 128 ∧
    UpdAccepted (atBit 128 7) ∧ (1 : Nat) ≠ (atBit 128 7).pos.toNat % 2 ^ 26 ∧
    (∃ t, exec (.upd 1) (atBit 128 7) = .next t ∧ t.mixIdx ≠ (atBit 128 7).mixIdx ∧
      2 ≠ (atBit 128 7).mixIdx.toNat ∧ 2 ≠ t.mixIdx.toNat ∧ ∃ i, i ≠ t.h.toNat) ∧
    (2 : Nat) ≠ (atBit 3 1).apmIdx.toNat ∧ 2 ≠ (atBit 3 1).apmIdx.toNat + 1 := by
  have ha : UpdAccepted (atBit 128 7) := by unfold UpdAccepted; decide
  have hm : (updState Config.rom 1 (atBit 128 7)).mixIdx = 1 := by
    rw [(updState_taken Config.rom 1 (atBit 128 7)).2.2.2.2.2.2.2.2.2.1, takeBit_boundary _ _ _ (by decide)]
    simp only [completeByte_writes]
    decide
  refine ⟨by unfold UpdAccepted; decide, by decide, by decide, ha, by decide, ⟨_, exec_upd_accepted ha, ?_⟩,
    by decide, by decide⟩
  rw [State.respond_mixIdx, hm]
  exact ⟨by decide, by decide, by decide, _, Nat.succ_ne_self _⟩

/-! ### `UPD`: the partial byte and the contexts -/

theorem witness_UpdFoldsTheBitInsideAByte :
    UpdAccepted (atBit 1 0) ∧ (atBit 1 0).c0.toNat ≤ 127 ∧ UpdAccepted (atBit 127 6) ∧ (atBit 127 6).c0.toNat ≤ 127 := by
  unfold UpdAccepted
  decide

theorem witness_FirstUpdateFollowsTheWorkedExample :
    (∀ k : Fin 7, romFix.stateMap k 0 = 0) ∧ ∀ k : Fin 7, stateMapFix k 0 = 0 := by
  decide

theorem witness_UpdCompletesAByte :
    UpdAccepted (atBit 128 7) ∧ 128 ≤ (atBit 128 7).c0.toNat ∧ (atBit 128 7).c0.toNat ≤ 255 ∧
    UpdAccepted (atBit 255 7) ∧ 128 ≤ (atBit 255 7).c0.toNat ∧ (atBit 255 7).c0.toNat ≤ 255 := by
  unfold UpdAccepted
  decide

/-- After the third byte the mode is binary; after the eighth, a byte with its high bit set, and after the fourth it is
text (R148). -/
theorem witness_UpdRecomputesTheContexts :
    (UpdAccepted { atBit 128 7 with pos := 2 } ∧
      ∃ t, exec (.upd 0) { atBit 128 7 with pos := 2 } = .next t ∧ ¬t.binCount.toInt < t.pos.toInt / 4) ∧
    (UpdAccepted { atBit 255 7 with pos := 7 } ∧
      ∃ t, exec (.upd 0) { atBit 255 7 with pos := 7 } = .next t ∧ t.binCount = 1 ∧ t.binCount.toInt < t.pos.toInt / 4) ∧
    (UpdAccepted { atBit 128 7 with pos := 3 } ∧
      ∃ t, exec (.upd 0) { atBit 128 7 with pos := 3 } = .next t ∧ t.binCount.toInt < t.pos.toInt / 4) := by
  have key : ∀ s : State, UpdAccepted s → 128 ≤ s.c0.toNat % 256 →
      ∃ t, exec (.upd 0) s = .next t ∧ t.pos = s.pos + 1 ∧
        t.binCount = s.binCount + ((s.c0.setWidth 7 ++ 0#1 : Byte) >>> 7).setWidth 32 := by
    intro s ha hb
    refine ⟨_, exec_upd_accepted ha, ?_⟩
    have hcb : completedByte (foldBit 0 (trainActiveMixer 0 s)) = s.c0.setWidth 7 ++ 0#1 := by
      have : ∀ c : BitVec 9, (c <<< 1 ||| (0#1).setWidth 9).setWidth 8 = c.setWidth 7 ++ 0#1 := by decide
      simpa [completedByte, foldBit] using this s.c0
    rw [State.respond_pos, State.respond_binCount, (updState_taken Config.rom 0 s).2.2.2.2.2.1,
      (updState_taken Config.rom 0 s).2.2.2.2.2.2.1, takeBit_boundary _ _ _ (by simpa using hb)]
    simp only [completeByte_writes, hcb]
    simp
  refine ⟨⟨?_, ?_⟩, ⟨?_, ?_⟩, ⟨?_, ?_⟩⟩
  · unfold UpdAccepted; decide
  · obtain ⟨t, h1, h2, h3⟩ := key { atBit 128 7 with pos := 2 } (by unfold UpdAccepted; decide) (by decide)
    exact ⟨t, h1, by rw [h2, h3]; decide⟩
  · unfold UpdAccepted; decide
  · obtain ⟨t, h1, h2, h3⟩ := key { atBit 255 7 with pos := 7 } (by unfold UpdAccepted; decide) (by decide)
    exact ⟨t, h1, by rw [h2, h3]; decide⟩
  · unfold UpdAccepted; decide
  · obtain ⟨t, h1, h2, h3⟩ := key { atBit 128 7 with pos := 3 } (by unfold UpdAccepted; decide) (by decide)
    exact ⟨t, h1, by rw [h2, h3]; decide⟩

theorem witness_ByteArrivesMostSignificantBitFirst :
    State.reset.c0 = 1 ∧ State.reset.bpos = 0 ∧ State.reset.pos ≠ 0x7FFFFFFF := by decide

/-! ### `UPD`: the match model -/

theorem witness_UpdRecordsThePosition : UpdAccepted (atBit 255 7) ∧ 128 ≤ (atBit 255 7).c0.toNat ∧
    (atBit 255 7).c0.toNat ≤ 255 := by
  unfold UpdAccepted
  decide

theorem witness_UpdExtendsALiveMatch :
    (UpdAccepted (withMatch 128 1) ∧ 128 ≤ (withMatch 128 1).c0.toNat ∧ (withMatch 128 1).c0.toNat ≤ 255 ∧
      0 < (withMatch 128 1).matchLen.toNat ∧ (withMatch 128 1).matchLen.toNat ≤ 88) ∧
    (UpdAccepted (withMatch 255 88) ∧ 128 ≤ (withMatch 255 88).c0.toNat ∧ (withMatch 255 88).c0.toNat ≤ 255 ∧
      0 < (withMatch 255 88).matchLen.toNat ∧ (withMatch 255 88).matchLen.toNat ≤ 88) := by
  unfold UpdAccepted
  decide

/-- A candidate one byte back, and none. -/
theorem witness_UpdLooksUpAMatch :
    (UpdAccepted withCandidate ∧ 128 ≤ withCandidate.c0.toNat ∧ withCandidate.c0.toNat ≤ 255 ∧
      withCandidate.matchLen = 0 ∧ ∃ t, exec (.upd 0) withCandidate = .next t ∧
        withCandidate.hashEntry t.h.toNat ≠ 0 ∧ (t.pos - withCandidate.hashEntry t.h.toNat).toInt ≤ 2 ^ 26 - 1) ∧
    (UpdAccepted (atBit 255 7) ∧ (atBit 255 7).matchLen = 0 ∧ ∀ i, (atBit 255 7).hashEntry i = 0) := by
  have ha : UpdAccepted withCandidate := by unfold UpdAccepted; decide
  refine ⟨⟨ha, by decide, by decide, by decide, _, exec_upd_accepted ha, ?_⟩, by unfold UpdAccepted; decide,
    by decide, fun _ => rfl⟩
  have hb := takeBit_boundary Config.rom 0 (trainActiveMixer 0 withCandidate) (by decide)
  have hh : (updState Config.rom 0 withCandidate).h = Config.hstep 0 0 := by
    rw [(updState_taken Config.rom 0 withCandidate).2.2.2.2.1, hb]
    simp only [completeByte_writes]
    rfl
  have hp : (updState Config.rom 0 withCandidate).pos = 1 := by
    rw [(updState_taken Config.rom 0 withCandidate).2.2.2.2.2.1, hb]
    simp only [completeByte_writes]
    rfl
  have he : withCandidate.hashEntry (Config.hstep 0 0).toNat = 1 := by
    show Store.read zeroCell [((Config.hstep 0 0).toNat, 1)] _ = 1
    rw [Store.read_cons, if_pos rfl]
  rw [State.respond_h, State.respond_pos, hh, hp, he]
  decide

theorem witness_UpdKillsADisagreeingMatch :
    (UpdAccepted (atBit 1 0) ∧ (atBit 1 0).c0.toNat ≤ 127 ∧ (atBit 1 0).bpos.toNat ≤ 6) ∧
    (UpdAccepted (atBit 127 6) ∧ (atBit 127 6).c0.toNat ≤ 127 ∧ (atBit 127 6).bpos.toNat ≤ 6) := by
  unfold UpdAccepted
  decide

theorem witness_UpdGathersTheMatchInput : UpdAccepted (atBit 1 0) ∧ UpdAccepted nearMiss := by
  unfold UpdAccepted
  decide

theorem witness_ExtendedMatchAgreesOnSevenBits :
    UpdAccepted nearMiss ∧ CounterInv nearMiss ∧ MatchInv nearMiss ∧ 128 ≤ nearMiss.c0.toNat ∧
    0 < nearMiss.matchLen.toNat :=
  ⟨by unfold UpdAccepted; decide, counterInv_nearMiss, matchInv_nearMiss, by decide, by decide⟩

theorem witness_MatchStrengthTable :
    (1 ≤ (1#7).toNat ∧ (1#7).toNat ≤ 88) ∧ (1 ≤ (24#7).toNat ∧ (24#7).toNat ≤ 88) ∧
    (1 ≤ (25#7).toNat ∧ (25#7).toNat ≤ 88) ∧ (1 ≤ (88#7).toNat ∧ (88#7).toNat ≤ 88) := by decide

/-! ### `UPD`: steps 4 to 8 and 1 (each asks for acceptance alone) -/

theorem witness_UpdAdvancesEachSlotOncePerPointer : UpdAccepted State.reset := by unfold UpdAccepted; decide

theorem witness_UpdAimsThePointers : UpdAccepted (atBit 255 7) := by unfold UpdAccepted; decide

theorem witness_UpdKeepsSlotStatesInRange :
    (∀ b v, v ≤ 252 → romFix.transition b v ≤ 252) ∧ ∀ i, State.reset.slot i ≤ 252 := by
  refine ⟨?_, fun _ => by show (0#8) ≤ 252; decide⟩
  show ∀ b v, v ≤ 252 → transitionFix b v ≤ 252
  decide

theorem witness_UpdGathersTheStateMaps : UpdAccepted (atBit 127 6) := by unfold UpdAccepted; decide

theorem witness_UpdMixesTheInputs : UpdAccepted (atBit 1 0) := by unfold UpdAccepted; decide

/-- A zero and a non-zero raw error (R209). -/
theorem witness_UpdTrainsTheActiveMixer :
    UpdAccepted State.reset ∧ (State.reset.mixer State.reset.mixIdx.toNat).rawError 1 ≠ 0 ∧
    (let s := State.reset.setMixer 0 { Mixer.initial with pr := 0 };
      UpdAccepted s ∧ (s.mixer s.mixIdx.toNat).rawError 0 = 0) := by
  unfold UpdAccepted
  decide

/-- Both ends of the rate, and an error of each sign. -/
theorem witness_ScaledErrorNeverWraps :
    (let m := Mixer.initial;
      1792 ≤ m.learnRate.toNat ∧ m.learnRate.toNat ≤ 7680 ∧ (0 : Int) < 4096 * (1#1).toNat - m.pr.toNat) ∧
    (let m := { Mixer.initial with learnRate := 1792, pr := 4095 };
      1792 ≤ m.learnRate.toNat ∧ m.learnRate.toNat ≤ 7680 ∧ (4096 * (0#1).toNat - m.pr.toNat : Int) < 0) := by
  decide

theorem witness_LearningRateDecaysByOne :
    (1792 ≤ Mixer.initial.learnRate.toNat ∧ Mixer.initial.learnRate.toNat ≤ 7680) ∧
    (let m := { Mixer.initial with learnRate := 1792, pr := 0 };
      1792 ≤ m.learnRate.toNat ∧ m.learnRate.toNat ≤ 7680 ∧ m.pr = 0) := by
  decide

theorem witness_UpdTrainsTheTwoCells :
    UpdAccepted State.reset ∧ ((0 : Nat) = State.reset.apmIdx.toNat ∨ (0 : Nat) = State.reset.apmIdx.toNat + 1) ∧
    ((1 : Nat) = State.reset.apmIdx.toNat ∨ (1 : Nat) = State.reset.apmIdx.toNat + 1) := by
  unfold UpdAccepted
  decide

theorem witness_UpdRefinesTheMixerOutput : UpdAccepted (atBit 128 7) := by unfold UpdAccepted; decide

theorem witness_UpdNeverStoresTwentyFortySeven : UpdAccepted State.reset := by unfold UpdAccepted; decide

theorem witness_TrainingAndLookupOrderIsUnobservable :
    UpdAccepted State.reset ∧ CounterInv State.reset ∧ IndexInv State.reset :=
  ⟨by unfold UpdAccepted; decide, counterInv_reset, indexInv_reset⟩

/-! ### Invariants -/

/-- A presented `UPD 1` at reset: the step that each invariant statement is about. -/
theorem witness_step : ∃ t, step (State.reset.withFetchWord 8 0x41) = .next t := ⟨_, rfl⟩

theorem witness_StepKeepsTheCounters : CounterInv (State.reset.withFetchWord 8 0x41) ∧
    ∃ t, step (State.reset.withFetchWord 8 0x41) = .next t :=
  ⟨by constructor <;> decide, witness_step⟩

theorem witness_StepKeepsMemoriesCanonical :
    IndexInv (State.reset.withFetchWord 8 0x41) ∧ MemoryInv Config.rom (State.reset.withFetchWord 8 0x41) ∧
    ∃ t, step (State.reset.withFetchWord 8 0x41) = .next t :=
  ⟨⟨indexInv_reset.1, indexInv_reset.2, indexInv_reset.3, indexInv_reset.4, indexInv_reset.5⟩,
    ⟨Store.wf_nil _, Store.wf_nil _, Store.wf_nil _, Store.wf_nil _, Store.wf_nil _⟩, witness_step⟩

theorem witness_StepKeepsTheMatchSound :
    CounterInv (nearMiss.withFetchWord 8 0x40) ∧ MatchInv (nearMiss.withFetchWord 8 0x40) ∧
    0 < (nearMiss.withFetchWord 8 0x40).matchLen.toNat ∧ ∃ t, step (nearMiss.withFetchWord 8 0x40) = .next t :=
  ⟨by constructor <;> decide,
    ⟨matchInv_nearMiss.1, matchInv_nearMiss.2, matchInv_nearMiss.3, matchInv_nearMiss.4⟩, by decide, ⟨_, rfl⟩⟩

theorem witness_StepKeepsTheByteHistory :
    CounterInv (State.reset.withFetchWord 8 0x41) ∧ HistoryInv (State.reset.withFetchWord 8 0x41) ∧
    ∃ t, step (State.reset.withFetchWord 8 0x41) = .next t :=
  ⟨by constructor <;> decide, by unfold HistoryInv; decide, witness_step⟩

theorem witness_StepKeepsTheLearningRates :
    RateInv (State.reset.withFetchWord 8 0x41) ∧ ∃ t, step (State.reset.withFetchWord 8 0x41) = .next t :=
  ⟨rateInv_reset, witness_step⟩

theorem witness_StepKeepsSlotsReachable :
    SlotInv Config.rom (State.reset.withFetchWord 8 0x41) ∧ ∃ t, step (State.reset.withFetchWord 8 0x41) = .next t :=
  ⟨fun _ => .virgin, witness_step⟩

theorem witness_RunsStayInGoodStates :
    (State.reset.withFetchWord 8 0x41).Inv Config.rom ∧ ∃ t, steps 1 (State.reset.withFetchWord 8 0x41) = .next t :=
  ⟨⟨witness_StepKeepsTheCounters.1, witness_StepKeepsMemoriesCanonical.1, witness_StepKeepsMemoriesCanonical.2.1,
      ⟨by decide, fun h => absurd h (by decide), fun h => absurd h (by decide), fun _ => Nat.zero_le _⟩,
      witness_StepKeepsTheByteHistory.2.1, .inl ⟨rfl, by decide⟩, rateInv_reset, fun _ => .virgin⟩, ⟨_, rfl⟩⟩

/-- At the last bit that fits. -/
theorem witness_AcceptedBitsAreCounted :
    (CounterInv State.reset ∧ State.reset.bitCount + [1#1, 0#1].length < 2 ^ 34) ∧
    (let s := { atBit 64 6 with pos := 0x7FFFFFFF };
      CounterInv s ∧ s.bitCount + [1#1].length < 2 ^ 34) :=
  ⟨⟨counterInv_reset, by decide⟩, by constructor <;> decide, by decide⟩

theorem witness_CanonicalMemoriesThatReadAlikeAreEqual :
    Store.wf (zeroCell : Nat → Byte) 16 [(0, 1), (3, 7)] ∧
    ∀ i, Store.read (zeroCell : Nat → Byte) [(0, 1), (3, 7)] i = Store.read zeroCell [(0, 1), (3, 7)] i :=
  ⟨by decide, fun _ => rfl⟩

/-! ### Defaults -/

theorem witness_DefaultSquashIsMonotone : (-2048#32).toInt ≤ (-2047#32).toInt ∧ (2047#32).toInt ≤ (2048#32).toInt := by
  decide

theorem witness_DefaultStretchIsTheSmallestArgumentReachingIt : (0#12).toNat ≤ 4094 ∧ (4094#12).toNat ≤ 4094 := by decide

theorem witness_DefaultMatchHashForgets : (0x12#8) &&& 15 = (0xF2#8) &&& 15 ∧ (0x12#8) ≠ 0xF2 := by decide

theorem witness_HashCornersAsStated : 1 ≤ (1#32).toNat ∧ (1#32).toNat ≤ 6 ∧ 1 ≤ (6#32).toNat ∧ (6#32).toNat ≤ 6 := by
  decide

end Sys2Proof.Tests
end

/-! ## The host driver's size hints (R8, R90, R93)

A hint goes through two tables: the host's thresholds, from bytes to a selector, and the block's, from a selector to
a size. Each table is stated once, and the statement composes them interval by interval. -/

namespace Sys2Proof.Machine

/-! ### The block's selector tables, as `SL` and `ML` -/

@[simp] theorem storeSizeOf_zero_log2 : (storeSizeOf 0).log2 = 26 := rfl
@[simp] theorem storeSizeOf_one_log2 : (storeSizeOf 1).log2 = 27 := rfl
@[simp] theorem storeSizeOf_two_log2 : (storeSizeOf 2).log2 = 28 := rfl
@[simp] theorem storeSizeOf_three_log2 : (storeSizeOf 3).log2 = 29 := rfl

@[simp] theorem poolSizeOf_zero_log2 : (poolSizeOf 0).log2 = 9 := rfl
@[simp] theorem poolSizeOf_one_log2 : (poolSizeOf 1).log2 = 10 := rfl
@[simp] theorem poolSizeOf_two_log2 : (poolSizeOf 2).log2 = 12 := rfl
@[simp] theorem poolSizeOf_three_log2 : (poolSizeOf 3).log2 = 14 := rfl

/-! ### The host's thresholds, in bytes -/

@[simp] theorem storeSelector_none : storeSelector none = 2 := rfl
@[simp] theorem poolSelector_none : poolSelector none = 2 := rfl

theorem storeSelector_some (n : Nat) : storeSelector (some n) =
    if 67108864 ≤ n then 3 else if 16777216 ≤ n then 2 else if 1048576 ≤ n then 1 else 0 := rfl

theorem poolSelector_some (n : Nat) : poolSelector (some n) =
    if 8388608 ≤ n then 3 else if 4194304 ≤ n then 2 else if 1048576 ≤ n then 1 else 0 := rfl

/-! ### The sizes a hint makes the block choose -/

/-- In each interval of R8 the host's selector is one number, and the block's table gives its size. -/
theorem storeSizeOf_storeSelector_some_log2 (n : Nat) : (storeSizeOf (storeSelector (some n))).log2 =
    if 67108864 ≤ n then 29 else if 16777216 ≤ n then 28 else if 1048576 ≤ n then 27 else 26 := by
  rw [storeSelector_some]
  split_ifs
  · exact storeSizeOf_three_log2
  · exact storeSizeOf_two_log2
  · exact storeSizeOf_one_log2
  · exact storeSizeOf_zero_log2

/-- The mixer pool's counterpart, over the intervals of the actual block size. -/
theorem poolSizeOf_poolSelector_some_log2 (n : Nat) : (poolSizeOf (poolSelector (some n))).log2 =
    if 8388608 ≤ n then 14 else if 4194304 ≤ n then 12 else if 1048576 ≤ n then 10 else 9 := by
  rw [poolSelector_some]
  split_ifs
  · exact poolSizeOf_three_log2
  · exact poolSizeOf_two_log2
  · exact poolSizeOf_one_log2
  · exact poolSizeOf_zero_log2

/-- Settles O16, by composing the host's thresholds with the block's selector tables; an absent hint is selector 2. -/
theorem hintsSelectTheTabledSizes : Obligations.HintsSelectTheTabledSizes :=
  ⟨storeSizeOf_storeSelector_some_log2, poolSizeOf_poolSelector_some_log2,
    by rw [storeSelector_none, storeSizeOf_two_log2], by rw [poolSelector_none, poolSizeOf_two_log2]⟩

end Sys2Proof.Machine

/-! ## One byte, eight commands (R67, R95)

The partial byte `c0` is a byte's leading bits under a sentinel 1, so with `n` bits of `v` still to come it is the
number `(256 + v) / 2 ^ n`. One accepted `UPD` takes it from `n + 1` bits to come to `n`, until the last bit to come
completes the byte; the eight commands of `BYTE v` are this, by induction on the bits still to come. -/

namespace Sys2Proof.Machine

/-! ### The leading bits of a byte -/

/-- The leading bits of `v` under a sentinel 1, `n` bits still to come: what `c0` holds then (R22, R110). -/
def leadingBits (v : Byte) (n : Nat) : Nat := (256 + v.toNat) / 2 ^ n

theorem leadingBits_eight (v : Byte) : leadingBits v 8 = 1 := by
  have hv := v.isLt
  simp only [leadingBits]
  omega

theorem leadingBits_zero (v : Byte) : leadingBits v 0 = 256 + v.toNat := by simp [leadingBits]

/-- With two bits or more to come, the next bit completes no byte (R111). -/
theorem leadingBits_add_two_lt (v : Byte) (n : Nat) : leadingBits v (n + 2) < 128 := by
  have hv := v.isLt
  have hp := Nat.two_pow_pos n
  refine Nat.div_lt_of_lt_mul ?_
  rw [pow_add]
  omega

/-- Bit `n` of the byte is the one that follows the leading bits down to `n + 1`. -/
theorem leadingBits_succ (v : Byte) {n : Nat} (hn : n < 8) :
    2 * leadingBits v (n + 1) + (v.extractLsb' n 1).toNat = leadingBits v n := by
  have hbit : (v.extractLsb' n 1).toNat = leadingBits v n % 2 := by
    have hs : 256 = 2 ^ n * (2 * 2 ^ (7 - n)) := by
      rw [← pow_succ', ← pow_add, show n + (7 - n + 1) = 8 by omega]
      norm_num
    rw [BitVec.extractLsb'_toNat, Nat.shiftRight_eq_div_pow, leadingBits, hs,
      Nat.mul_add_div (Nat.two_pow_pos n), pow_one, Nat.mul_add_mod]
  have hhalf : leadingBits v (n + 1) = leadingBits v n / 2 := by
    rw [leadingBits, leadingBits, pow_succ, Nat.div_div_eq_div_mul]
  rw [hbit, hhalf, Nat.div_add_mod]

/-! ### What an `UPD` does to `c0`, `pos`, `c4` and the buffer -/

section
variable (r : Rom) (y : Bit) (s : State)

/-- A bit that completes no byte is folded into `c0`; the counter, the rolling context and the buffer stay (R110). -/
theorem updState_inside (h : s.c0.toNat < 128) :
    (updState r y s).c0.toNat = 2 * s.c0.toNat + y.toNat ∧ (updState r y s).pos = s.pos ∧
    (updState r y s).c4 = s.c4 ∧ ∀ i, (updState r y s).bufferByte i = s.bufferByte i := by
  have ht : takeBit r y (trainActiveMixer y s) = foldBit y (trainActiveMixer y s) :=
    takeBit_inside _ _ _ (by simp; omega)
  have hc0 : (updState r y s).c0.toNat = (s.c0.toNat * 2 + y.toNat) % 512 := by
    simp [ht, foldBit_c0_toNat]
  have hy := Bit.toNat_le y
  exact ⟨by omega, by simp [ht], by simp [ht], fun i => by simp [ht]⟩

/-- A bit that completes the byte `b` starts the next byte, counts `b`, shifts it into `c4` and stores it at `pos mod N`
alone (R112, R113, R146). -/
theorem updState_boundary {b : Byte} (hb : 2 * s.c0.toNat + y.toNat = 256 + b.toNat) :
    (updState r y s).c0 = 1 ∧ (updState r y s).bpos = 0 ∧ (updState r y s).pos = s.pos + 1 ∧
    (updState r y s).c4.toNat = (s.c4.toNat * 256 + b.toNat) % 2 ^ 32 ∧
    ∀ i, (updState r y s).bufferByte i = if modN s.pos = i then b else s.bufferByte i := by
  have ht : takeBit r y (trainActiveMixer y s) = completeByte r (foldBit y (trainActiveMixer y s)) :=
    takeBit_boundary _ _ _ (by simp; omega)
  have hbyte : completedByte (foldBit y (trainActiveMixer y s)) = b := by
    apply BitVec.eq_of_toNat_eq
    rw [completedByte, BitVec.toNat_setWidth, foldBit_c0_toNat, (trainActiveMixer_frame y s).2.1]
    omega
  refine ⟨by simp [ht], by simp [ht], by simp [ht], ?_, fun i => by simp [ht, hbyte]⟩
  have hc4 : (updState r y s).c4 = s.c4 <<< 8 ||| b.setWidth 32 := by simp [ht, hbyte]
  rw [hc4, shiftIn_toNat s.c4 8 b b.isLt (by norm_num), show 2 ^ 8 = 256 from rfl]
end

/-! ### One accepted bit, through the port -/

section
variable (s : State) (ws : List Byte)

@[simp] theorem withStream_c0 : (s.withStream ws).c0 = s.c0 := (rfl)
@[simp] theorem withStream_pos : (s.withStream ws).pos = s.pos := (rfl)
@[simp] theorem withStream_c4 : (s.withStream ws).c4 = s.c4 := (rfl)
@[simp] theorem withStream_bufferByte (i : Nat) : (s.withStream ws).bufferByte i = s.bufferByte i := (rfl)
end

theorem decode_encode_upd (y : Bit) : decode (encode (.upd y)) = some (.upd y) := by
  revert y
  decide

/-- An `UPD` is refused at the last position alone (R239). -/
theorem updAccepted_of_pos_ne {s : State} (h : s.pos ≠ 0x7FFFFFFF) : UpdAccepted s :=
  fun overrun => h overrun.2

/-- One step on the word of an accepted `UPD` is its steps 1 to 8 and the response 0 (R85, R109). -/
theorem step_encode_upd {y : Bit} {ws : List Byte} {s : State} (hs : s.cmdIn = encode (.upd y) :: ws)
    (h : s.pos ≠ 0x7FFFFFFF) :
    step s = .next ((updState Config.rom y (s.withStream ws)).respond .ok 0) := by
  rw [step_word hs, decode_encode_upd]
  exact exec_upd_accepted (updAccepted_of_pos_ne h)

/-- From `s` to `t` the byte `v` was delivered: it is in the buffer at `pos mod N`, counted and shifted into `c4`, the
next byte is begun, and the words `rest` are still to come. -/
structure ByteDelivered (v : Byte) (rest : List Byte) (s t : State) : Prop where
  cmdIn : t.cmdIn = rest
  c0 : t.c0 = 1
  bpos : t.bpos = 0
  pos : t.pos = s.pos + 1
  c4 : t.c4.toNat = (s.c4.toNat * 256 + v.toNat) % 2 ^ 32
  buffer : ∀ i, t.bufferByte i = if modN s.pos = i then v else s.bufferByte i

/-- Where `v` lands depends on the position, the rolling context and the buffer it was delivered to alone. -/
theorem ByteDelivered.congr {v : Byte} {rest : List Byte} {s s' t : State} (h : ByteDelivered v rest s' t)
    (hpos : s'.pos = s.pos) (hc4 : s'.c4 = s.c4) (hbuf : ∀ i, s'.bufferByte i = s.bufferByte i) :
    ByteDelivered v rest s t where
  cmdIn := h.cmdIn
  c0 := h.c0
  bpos := h.bpos
  pos := by rw [h.pos, hpos]
  c4 := by rw [h.c4, hc4]
  buffer i := by rw [h.buffer, hpos, hbuf]

/-- The step on the word of a bit that completes no byte. -/
theorem step_upd_inside {y : Bit} {ws : List Byte} {s : State} (hs : s.cmdIn = encode (.upd y) :: ws)
    (hpos : s.pos ≠ 0x7FFFFFFF) (h : s.c0.toNat < 128) :
    ∃ t, step s = .next t ∧ t.cmdIn = ws ∧ t.c0.toNat = 2 * s.c0.toNat + y.toNat ∧ t.pos = s.pos ∧ t.c4 = s.c4 ∧
      ∀ i, t.bufferByte i = s.bufferByte i := by
  refine ⟨_, step_encode_upd hs hpos, by simp, ?_⟩
  simpa only [State.respond_c0, State.respond_pos, State.respond_c4, State.bufferByte_respond, withStream_c0,
    withStream_pos, withStream_c4, withStream_bufferByte] using updState_inside Config.rom y (s.withStream ws) h

/-- The step on the word of the bit that completes the byte `v`. -/
theorem step_upd_boundary {y : Bit} {ws : List Byte} {s : State} {v : Byte} (hs : s.cmdIn = encode (.upd y) :: ws)
    (hpos : s.pos ≠ 0x7FFFFFFF) (hv : 2 * s.c0.toNat + y.toNat = 256 + v.toNat) :
    ∃ t, step s = .next t ∧ ByteDelivered v ws s t := by
  obtain ⟨hc0, hbpos, hpos', hc4, hbuf⟩ := updState_boundary Config.rom y (s.withStream ws) hv
  refine ⟨_, step_encode_upd hs hpos, ?_⟩
  constructor
  · simp
  · rw [State.respond_c0, hc0]
  · rw [State.respond_bpos, hbpos]
  · rw [State.respond_pos, hpos', withStream_pos]
  · rw [State.respond_c4, hc4, withStream_c4]
  · intro i
    rw [State.bufferByte_respond, hbuf, withStream_pos, withStream_bufferByte]

/-! ### The bits still to come -/

/-- The commands that deliver the low `n` bits of `v`, the highest of them first. -/
def lowBitCommands (v : Byte) : Nat → List Instr
  | 0 => []
  | n + 1 => .upd (v.extractLsb' n 1) :: lowBitCommands v n

theorem byteCommands_eq_lowBitCommands (v : Byte) : byteCommands v = lowBitCommands v 8 := rfl

/-- With the low `n + 1` bits of `v` to come and the others in `c0`, the commands of those bits complete `v`. -/
theorem steps_lowBitCommands (v : Byte) (rest : List Byte) {n : Nat} (hn : n < 8) {s : State}
    (hs : s.cmdIn = (lowBitCommands v (n + 1)).map encode ++ rest) (hc0 : s.c0.toNat = leadingBits v (n + 1))
    (hpos : s.pos ≠ 0x7FFFFFFF) :
    ∃ t, steps (n + 1) s = .next t ∧ ByteDelivered v rest s t := by
  induction n generalizing s with
  | zero =>
    have hv : 2 * s.c0.toNat + (v.extractLsb' 0 1).toNat = 256 + v.toNat := by
      rw [hc0, leadingBits_succ v hn, leadingBits_zero]
    obtain ⟨t, hstep, hdel⟩ := step_upd_boundary hs hpos hv
    exact ⟨t, steps_succ hstep, hdel⟩
  | succ n ih =>
    obtain ⟨u, hstep, ucmd, uc0, upos, uc4, ubuf⟩ :=
      step_upd_inside hs hpos (by rw [hc0]; exact leadingBits_add_two_lt v n)
    rw [hc0, leadingBits_succ v hn] at uc0
    obtain ⟨t, hrun, hdel⟩ := ih (by omega) ucmd uc0 (by rwa [upos])
    exact ⟨t, (steps_succ hstep).trans hrun, hdel.congr upos uc4 ubuf⟩

/-- Settles O24, by induction on the bits of the byte still to come. -/
theorem byteArrivesMostSignificantBitFirst : Obligations.ByteArrivesMostSignificantBitFirst := by
  unfold Obligations.ByteArrivesMostSignificantBitFirst
  intro v rest s hc0 _ hpos
  obtain ⟨t, hrun, hdel⟩ := steps_lowBitCommands v rest (n := 7) (by norm_num)
    (s := s.withStream ((byteCommands v).map encode ++ rest))
    (by rw [withStream_cmdIn, byteCommands_eq_lowBitCommands]) (by rw [withStream_c0, hc0, leadingBits_eight]; rfl) hpos
  refine ⟨t, hrun, hdel.cmdIn, hdel.c0, hdel.bpos, hdel.pos, hdel.c4, ?_, fun i hi => ?_⟩
  · rw [hdel.buffer]
    exact if_pos rfl
  · rw [hdel.buffer]
    exact if_neg hi.symm

end Sys2Proof.Machine

/-! ## `PROB` and `INIT` (R106, R108)

`PROB` only presents the stored prediction, so a row of them is its first, by induction on its length. `INIT` makes the
reset state under the selected sizes and touches the two ports alone, so what it leaves is what the reset state holds:
the registers as R49 lists them, and in each memory, which lists no element, every element's reset value. -/

namespace Sys2Proof.Machine

/-! ### `PROB` -/

/-- `PROB` writes the response port alone (R108, R92). -/
theorem exec_prob_eq_setRsp (s : State) : exec .prob s = .next { s with rsp := some (0#4 ++ s.pr) } := by
  rw [exec_prob, State.respond, responseWord_ok]

theorem execAll_cons {i : Instr} {s t : State} (is : List Instr) (h : exec i s = .next t) :
    execAll (i :: is) s = execAll is t := by
  rw [execAll, h]

/-- The first `PROB` of a row leaves the stored prediction as it was, so the others answer the same. -/
theorem execAll_replicate_prob (n : Nat) (s : State) :
    execAll (List.replicate (n + 1) .prob) s = .next { s with rsp := some (0#4 ++ s.pr) } := by
  induction n generalizing s with
  | zero => exact execAll_cons [] (exec_prob_eq_setRsp s)
  | succ n ih =>
    rw [List.replicate_succ, execAll_cons _ (exec_prob_eq_setRsp s)]
    exact ih _

/-- Settles O11, by induction on the number of `PROB` commands; the reset state stores 2048. -/
theorem probRespondsWithStoredPrediction : Obligations.ProbRespondsWithStoredPrediction :=
  ⟨exec_prob_eq_setRsp, execAll_replicate_prob, exec_prob_eq_setRsp State.reset⟩

/-! ### What the reset state holds (R49) -/

section
variable (sl : StoreSize) (ml : PoolSize)

@[simp] theorem initial_ctx (k : Fin 7) : (State.initial sl ml).ctx[k] = 0 := Vector.getElem_replicate k.isLt

@[simp] theorem initial_cp (k : Fin 7) : (State.initial sl ml).cp[k] = 0 := Vector.getElem_replicate k.isLt

@[simp] theorem initial_slot (i : Nat) : (State.initial sl ml).slot i = 0 := Store.read_nil i

@[simp] theorem initial_bufferByte (i : Nat) : (State.initial sl ml).bufferByte i = 0 := Store.read_nil i

@[simp] theorem initial_hashEntry (i : Nat) : (State.initial sl ml).hashEntry i = 0 := Store.read_nil i

@[simp] theorem initial_mixer (j : Nat) : (State.initial sl ml).mixer j = Mixer.initial := Store.read_nil j

@[simp] theorem initial_apmCell (r : Rom) (i : Nat) : (State.initial sl ml).apmCell r i = apmReset r i :=
  Store.read_nil i
end

/-- The reset record of the mixer pool, in numbers (R38). -/
theorem Mixer.initial_fields : (∀ i : Fin 8, Mixer.initial.w[i] = 2048 ∧ Mixer.initial.p[i] = 0) ∧
    Mixer.initial.skew = 0 ∧ Mixer.initial.learnRate = 7680 ∧ Mixer.initial.pr = 2048 :=
  ⟨fun i => ⟨Vector.getElem_replicate i.isLt, Vector.getElem_replicate i.isLt⟩, rfl, rfl, rfl⟩

/-! ### The APM's reset values (R42, R216) -/

/-- Every row of the grid resets to the same 33 columns. -/
theorem apmReset_row (r : Rom) (c : Nat) {j : Nat} (hj : j < 33) : apmReset r (c * 33 + j) = apmColumn r j := by
  have hcol : (c * 33 + j) % 33 = j := by omega
  exact congrArg (apmColumn r) hcol

/-- The block's 32-bit argument of `SQUASH` for column `j` is the signed number the rule writes. -/
theorem apmColumn_argument (j : Nat) :
    (BitVec.ofNat 32 j - 16) * 128 = BitVec.ofInt 32 (((j : Int) - 16) * 128) := by
  rw [BitVec.ofInt_mul, Int.sub_eq_add_neg, BitVec.ofInt_add, BitVec.ofInt_natCast, BitVec.sub_eq_add_neg]
  rfl

/-- A 12-bit probability times 16 fits the 16-bit cell, so the product does not wrap. -/
theorem apmColumn_toNat (r : Rom) (j : Nat) :
    (apmColumn r j).toNat = (r.squash (BitVec.ofInt 32 (((j : Int) - 16) * 128))).toNat * 16 := by
  rw [apmColumn, apmColumn_argument]
  generalize r.squash _ = p
  have hp := p.isLt
  rw [BitVec.toNat_mul, BitVec.toNat_setWidth]
  change p.toNat % 2 ^ 16 * 16 % 2 ^ 16 = p.toNat * 16
  omega

/-! ### `INIT` -/

/-- `INIT` makes the reset state of the selected sizes, answers 0 and leaves the words to come on the port (R106). -/
theorem exec_init_eq_initial (ss ms : BitVec 2) (s : State) : exec (.init ss ms) s =
    .next ((State.initial (storeSizeOf ss) (poolSizeOf ms)).withPorts s.cmdIn (some 0x0000)) :=
  exec_init s ss ms

/-- Settles O13: the state `INIT` makes is the reset state but for its ports, which no register and no memory reads. -/
theorem initPutsEveryFieldAtItsResetValue : Obligations.InitPutsEveryFieldAtItsResetValue := by
  unfold Obligations.InitPutsEveryFieldAtItsResetValue
  intro ss ms s
  have hexec := exec_init_eq_initial ss ms s
  generalize hsl : storeSizeOf ss = sl at hexec
  generalize hml : poolSizeOf ms = ml at hexec
  refine ⟨_, hexec, hsl.symm, hml.symm, rfl, rfl, rfl, rfl, rfl, rfl, rfl, rfl, rfl, rfl,
    initial_ctx sl ml, initial_cp sl ml, rfl, rfl, rfl, rfl,
    initial_slot sl ml, initial_bufferByte sl ml, initial_hashEntry sl ml, fun j => ?mixers, fun c _ j hj => ?apm⟩
  case mixers =>
    rw [State.withPorts_mixer, initial_mixer]
    exact Mixer.initial_fields
  case apm =>
    rw [State.withPorts_apmCell, initial_apmCell, apmReset_row Config.rom c hj, apmColumn_toNat]
    rfl

end Sys2Proof.Machine

/-! ## Step 4, the bit histories (R132 to R134)

Each lane advances the slot its pointer names and then re-aims that pointer alone, so the lanes still to come find their
pointers as they stood on entry. By induction on the lanes run, a slot has then been advanced once for each of them whose
pointer named it on entry, and their pointers are re-aimed. -/

namespace Sys2Proof.Machine

/-- One lane of step 4: `NEXT(k, y)`, then `MOVE(k)` (R133). -/
def advanceLane (r : Rom) (y : Bit) (s : State) (k : Fin 7) : State := movePointer k (nextHistory r y k s)

section
variable (r : Rom) (y : Bit) (s : State)

/-- Step 4 runs every lane once, in ascending order (R117). -/
theorem advanceHistories_eq_foldl : advanceHistories r y s = (List.finRange 7).foldl (advanceLane r y) s := rfl

/-! ### One lane -/

@[simp] theorem advanceLane_frame (k : Fin 7) : (advanceLane r y s k).sl = s.sl ∧
    (advanceLane r y s k).ctx = s.ctx ∧ (advanceLane r y s k).c0 = s.c0 := by
  simp [advanceLane]

/-- A lane advances the slot its pointer names on entry, and no other (R132). -/
theorem advanceLane_slot (k : Fin 7) (i : Nat) : (advanceLane r y s k).slot i =
    if s.cp[k].toNat = i then r.transition y (s.slot i) else s.slot i := by
  simp [advanceLane]

/-- A lane re-aims its own pointer, and no other (R134). -/
theorem advanceLane_cp (k j : Fin 7) : (advanceLane r y s k).cp[j] =
    if k = j then slotIndex s.sl s.ctx[k] s.c0 else s.cp[j] := by
  simp [advanceLane]

/-! ### A row of lanes -/

/-- Lanes that run once each advance a slot as often as their pointers name it on entry. -/
theorem foldl_advanceLane_slot {ks : List (Fin 7)} (hks : ks.Nodup) (i : Nat) :
    (ks.foldl (advanceLane r y) s).slot i =
      (r.transition y)^[ks.countP fun k : Fin 7 => s.cp[k].toNat == i] (s.slot i) := by
  induction ks generalizing s with
  | nil => rfl
  | cons k ks ih =>
    obtain ⟨hk, hks⟩ := List.nodup_cons.1 hks
    have later : (ks.countP fun j : Fin 7 => (advanceLane r y s k).cp[j].toNat == i) =
        ks.countP fun j : Fin 7 => s.cp[j].toNat == i := by
      refine List.countP_congr fun j hj => ?_
      rw [advanceLane_cp, if_neg (ne_of_mem_of_not_mem hj hk).symm]
    rw [List.foldl_cons, ih _ hks, later, advanceLane_slot, List.countP_cons]
    by_cases named : s.cp[k].toNat = i
    · rw [if_pos named, if_pos (beq_iff_eq.2 named), Function.iterate_succ_apply]
    · rw [if_neg named, if_neg (mt beq_iff_eq.1 named), Nat.add_zero]

/-- The lanes that run, repeated or not, leave their pointers re-aimed and the other pointers as they were. -/
theorem foldl_advanceLane_cp (ks : List (Fin 7)) (j : Fin 7) : (ks.foldl (advanceLane r y) s).cp[j] =
    if j ∈ ks then slotIndex s.sl s.ctx[j] s.c0 else s.cp[j] := by
  induction ks generalizing s with
  | nil => rfl
  | cons k ks ih =>
    obtain ⟨hsl, hctx, hc0⟩ := advanceLane_frame r y s k
    rw [List.foldl_cons, ih, hsl, hctx, hc0, advanceLane_cp]
    by_cases own : k = j
    · subst own
      simp
    · simp [own, Ne.symm own]

/-! ### The seven lanes -/

/-- Step 4 advances a slot once for each of the seven pointers that names it on entry (R133). -/
theorem advanceHistories_slot (i : Nat) : (advanceHistories r y s).slot i =
    (r.transition y)^[(List.finRange 7).countP fun k : Fin 7 => s.cp[k].toNat == i] (s.slot i) :=
  foldl_advanceLane_slot r y s (List.nodup_finRange 7) i

/-- Step 4 re-aims every pointer (R134). -/
theorem advanceHistories_cp (k : Fin 7) : (advanceHistories r y s).cp[k] = slotIndex s.sl s.ctx[k] s.c0 := by
  rw [advanceHistories_eq_foldl, foldl_advanceLane_cp, if_pos (List.mem_finRange k)]

/-! ### An `UPD` -/

/-- Steps 1 to 3 move no pointer and no slot, so step 4 finds both as they were on entry. -/
theorem updState_slot_of_entry (i : Nat) : (updState r y s).slot i =
    (r.transition y)^[(List.finRange 7).countP fun k : Fin 7 => s.cp[k].toNat == i] (s.slot i) := by
  have hcp : (takeBit r y (trainActiveMixer y s)).cp = s.cp := by simp
  have hslot : (takeBit r y (trainActiveMixer y s)).slot i = s.slot i := by simp
  rw [updState_slot, advanceHistories_slot, hcp, hslot]

/-- Steps 5 to 8 leave the pointers, their context bases and the partial byte, so the pointers still stand where the
command's own bases and partial byte aim them. -/
theorem updState_cp (k : Fin 7) :
    (updState r y s).cp[k] = slotIndex (updState r y s).sl (updState r y s).ctx[k] (updState r y s).c0 := by
  have hcp := (updState_advanced r y s).1
  have hsl : (takeBit r y (trainActiveMixer y s)).sl = (updState r y s).sl := by simp
  have hctx : (takeBit r y (trainActiveMixer y s)).ctx = (updState r y s).ctx := by simp
  have hc0 : (takeBit r y (trainActiveMixer y s)).c0 = (updState r y s).c0 := by simp
  rw [hcp, advanceHistories_cp, hsl, hctx, hc0]
end

/-- Settles O33, by induction on the lanes of step 4: none of them moves the pointer of a lane still to come. -/
theorem updAdvancesEachSlotOncePerPointer : Obligations.UpdAdvancesEachSlotOncePerPointer := by
  unfold Obligations.UpdAdvancesEachSlotOncePerPointer
  intro y s ha
  refine ⟨_, exec_upd_accepted ha, fun i => ?_⟩
  rw [State.slot_respond, updState_slot_of_entry]
  rfl

/-- Settles O34: every lane of step 4 re-aims its pointer, and the slot index is the sum's low `SL` bits. -/
theorem updAimsThePointers : Obligations.UpdAimsThePointers := by
  unfold Obligations.UpdAimsThePointers
  intro y s ha
  refine ⟨_, exec_upd_accepted ha, fun k => ?_⟩
  rw [State.respond_cp, State.respond_ctx, State.respond_c0, State.respond_sl, updState_cp, slotIndex_toNat]

end Sys2Proof.Machine

/-! ## Step 3d, the context bases (R148 to R158)

The bases are computed in the middle of step 3, from `c4`, `c8`, `binCount` and `pos` alone, and no later step of the
`UPD` writes one of these. So a completed `UPD` leaves each base at its formula of the state it leaves, and what remains is
to read that formula in the rules' own operations. -/

namespace Sys2Proof.Machine

/-! ### The hasher in the rules' operations -/

/-- The mode test compares the signed counter with the floor of a quarter of the signed position (R148). -/
theorem textMode_iff (s : State) : textMode s = true ↔ s.binCount.toInt < s.pos.toInt / 4 := by
  rw [textMode, asr, BitVec.slt_iff_toInt_lt, BitVec.toInt_sshiftRight, Int.shiftRight_eq_div_pow]
  rfl

theorem noHighBit_iff (x : Word) : noHighBit x = true ↔ x &&& 0x80808080 = 0 := beq_iff_eq

/-- `h1` is `c4` itself in text mode if none of its bytes has its high bit set, and its older half otherwise (R149,
R150). -/
theorem hash1_eq (s : State) : hash1 s =
    if s.binCount.toInt < s.pos.toInt / 4 ∧ s.c4 &&& 0x80808080 = 0 then s.c4 else s.c4.sshiftRight 16 := by
  simp only [hash1, textMode_iff, noHighBit_iff, ite_and, asr]

/-- `h2` is the same rule on `c8` (R149, R150). -/
theorem hash2_eq (s : State) : hash2 s =
    if s.binCount.toInt < s.pos.toInt / 4 ∧ s.c8 &&& 0x80808080 = 0 then s.c8 else s.c8.sshiftRight 16 := by
  simp only [hash2, textMode_iff, noHighBit_iff, ite_and, asr]

theorem hash3_text {s : State} (h : s.binCount.toInt < s.pos.toInt / 4) : hash3 s = s.c4 ^^^ (s.c8 &&& 0xFFFF) :=
  if_pos ((textMode_iff s).2 h)

/-- Clearing by exclusive or the bits a mask selects is keeping the others. -/
theorem xor_and_self_eq_and_not {w : Nat} (x m : BitVec w) : x ^^^ (x &&& m) = x &&& ~~~m := by
  ext i
  cases h : x[i] <;> simp [h]

/-- In binary mode `h3` is the two older bytes of `c4`, in place (R150). -/
theorem hash3_binary {s : State} (h : ¬s.binCount.toInt < s.pos.toInt / 4) : hash3 s = s.c4 &&& 0xFFFF0000 :=
  calc hash3 s = s.c4 ^^^ (s.c4 &&& 0xFFFF) := if_neg (mt (textMode_iff s).1 h)
    _ = s.c4 &&& ~~~0xFFFF := xor_and_self_eq_and_not _ _
    _ = s.c4 &&& 0xFFFF0000 := rfl

/-- Swapping the two halves is rotating by 16 (R154). -/
theorem rot16_eq_rotateLeft (t : Word) : rot16 t = t.rotateLeft 16 := rfl

theorem addContext_eq (id : Nat) (v : Word) : addContext (BitVec.ofNat 32 id) v =
    (v * 987654323#32 + BitVec.ofNat 32 id).rotateLeft 16 * 123456791#32 + BitVec.ofNat 32 id := by
  rw [addContext, rot16_eq_rotateLeft]
  rfl

/-! ### The bases an `UPD` leaves -/

/-- Step 3 sets the bases by the state it leaves, and steps 4 to 8 keep both the bases and what they are computed from
(R115). -/
theorem updState_ctx (r : Rom) (y : Bit) {s : State} (hlow : 128 ≤ s.c0.toNat) (hhigh : s.c0.toNat ≤ 255) (k : Fin 7) :
    (updState r y s).ctx[k] = contextBase r (updState r y s) k := by
  have ht : takeBit r y (trainActiveMixer y s) = completeByte r (foldBit y (trainActiveMixer y s)) :=
    takeBit_boundary _ _ _ (by simp; omega)
  have hbase : contextBase r (updState r y s) = contextBase r (takeBit r y (trainActiveMixer y s)) :=
    contextBase_congr _ (by simp) (by simp) (by simp) (by simp)
  have hctx : (updState r y s).ctx = (takeBit r y (trainActiveMixer y s)).ctx := by simp
  rw [hbase, hctx, ht]
  exact completeByte_ctx r _ k

/-- The response is no input of the hasher. -/
theorem contextBase_respond (r : Rom) (s : State) (c : ResponseCode) (v : Prob) :
    contextBase r (s.respond c v) = contextBase r s :=
  contextBase_congr r (State.respond_c4 ..) (State.respond_c8 ..) (State.respond_binCount ..) (State.respond_pos ..)

/-- An accepted `UPD` at a byte boundary completes with every base at its formula of the new state. -/
theorem exec_upd_ctx {y : Bit} {s : State} (ha : UpdAccepted s) (hlow : 128 ≤ s.c0.toNat) (hhigh : s.c0.toNat ≤ 255) :
    ∃ t, exec (.upd y) s = .next t ∧ ∀ k : Fin 7, t.ctx[k] = contextBase Config.rom t k := by
  refine ⟨_, exec_upd_accepted ha, fun k => ?_⟩
  rw [State.respond_ctx, contextBase_respond, updState_ctx Config.rom y hlow hhigh]

/-- Settles O23: each base is its formula of the state the command leaves. For bases 1 to 5 that is the written formula by
definition; the mode's case split decides `h3` of base 0 and `h1`, `h2` of base 6. -/
theorem updRecomputesTheContexts : Obligations.UpdRecomputesTheContexts := by
  unfold Obligations.UpdRecomputesTheContexts
  intro y s ha hlow hhigh
  obtain ⟨t, hexec, hctx⟩ := exec_upd_ctx (y := y) ha hlow hhigh
  have written (k : Fin 7) {v : Word} (hk : contextBase Config.rom t k = addContext (BitVec.ofNat 32 k) v) :
      t.ctx[k] = (v * 987654323#32 + BitVec.ofNat 32 k).rotateLeft 16 * 123456791#32 + BitVec.ofNat 32 k := by
    rw [hctx, hk, addContext_eq]
  refine ⟨t, hexec, fun htext => ?base0_text, fun hbinary => ?base0_binary, written 1 rfl, written 2 rfl, written 3 rfl,
    written 4 rfl, written 5 rfl, ?base6⟩
  case base0_text => exact written 0 (congrArg (addContext 0) (hash3_text htext))
  case base0_binary => exact written 0 (congrArg (addContext 0) (hash3_binary hbinary))
  case base6 => exact written 6 (congrArg (addContext 6) (congrArg₂ hashTPAQ (hash1_eq t) (hash2_eq t)))

end Sys2Proof.Machine

/-! ## The match finder, its input, and the state maps (R172, R177 to R187)

The finder runs in the middle of step 3, after the completed byte is stored and counted. No later step writes the position,
the hash or the buffer it reads, and on the first bit of a byte no match is killed, so what an `UPD` leaves in the match
registers is what the finder found, in terms of the state the command leaves. The table write and the gathered inputs are
read off the completed command in the same way. -/

namespace Sys2Proof.Machine

/-! ### The match model in the rules' numbers -/

/-- Up to 24 the strength is the length; each eight bytes more add one (R187). -/
theorem matchStrength_toNat (n : BitVec 7) :
    (matchStrength n).toNat = if n.toNat ≤ 24 then n.toNat else 24 + (n.toNat - 24) / 8 := by
  have hn := n.isLt
  have hwide : (n.setWidth 32).toNat = n.toNat := by rw [BitVec.toNat_setWidth]; omega
  by_cases hshort : n.toNat ≤ 24
  · rw [matchStrength, if_pos hshort, if_pos hshort, hwide]
  · have hrest : (n.setWidth 32 - 24).toNat = n.toNat - 24 := by
      rw [BitVec.toNat_sub_of_le (BitVec.le_def.2 (by rw [hwide]; exact Nat.le_of_not_le hshort)), hwide]
      rfl
    rw [matchStrength, if_neg hshort, if_neg hshort, BitVec.toNat_add, lsr, BitVec.toNat_ushiftRight, hrest,
      Nat.shiftRight_eq_div_pow]
    change (24 + (n.toNat - 24) / 2 ^ 3) % 2 ^ 32 = _
    omega

/-- `mod N` of a difference is the remainder of the signed difference, on either side of 0 (R14, R64). -/
theorem modN_sub (x : Word) (d : Nat) : modN (x - BitVec.ofNat 32 d) = ((x.toInt - d) % 2 ^ 26).toNat := by
  have hsigned : x - BitVec.ofNat 32 d = BitVec.ofInt 32 (x.toInt - d) := by
    rw [Int.sub_eq_add_neg, BitVec.ofInt_add, BitVec.ofInt_neg, BitVec.ofInt_toInt, BitVec.ofInt_natCast,
      BitVec.sub_eq_add_neg]
  rw [hsigned, modN_eq, BitVec.toNat_ofInt]
  omega

/-- The candidate test (R179). -/
theorem candidateOk_iff (s : State) (p : Word) :
    candidateOk s p = true ↔ p ≠ 0 ∧ (s.pos - p).toInt ≤ 2 ^ 26 - 1 := by
  rw [candidateOk, Bool.and_eq_true, bne_iff_ne, BitVec.sle_iff_toInt_le]
  rfl

/-- The walk compares the bytes `d` before the current position and before the candidate (R180). -/
theorem walkAgrees_iff (s : State) (p : Word) (d : Nat) : walkAgrees s p d = true ↔
    s.bufferByte (((s.pos.toInt - d) % 2 ^ 26).toNat) = s.bufferByte (((p.toInt - d) % 2 ^ 26).toNat) := by
  rw [walkAgrees, beq_iff_eq, modN_sub, modN_sub]

/-! ### The lookup -/

section
variable {s : State}

theorem lookUpMatch_of_not_candidateOk (h : ¬candidateOk s (s.hashEntry s.h.toNat) = true) : lookUpMatch s = s :=
  if_neg h

theorem lookUpMatch_matchPos (h : candidateOk s (s.hashEntry s.h.toNat) = true) :
    (lookUpMatch s).matchPos = s.hashEntry s.h.toNat := by
  rw [lookUpMatch, if_pos h]

/-- The length found is the walk's count, which fits the register (R181). -/
theorem lookUpMatch_matchLen (h : candidateOk s (s.hashEntry s.h.toNat) = true) :
    (lookUpMatch s).matchLen.toNat = walkBack s (s.hashEntry s.h.toNat) maxLen 1 := by
  have hle : walkBack s (s.hashEntry s.h.toNat) maxLen 1 ≤ 88 := (walkBack_spec s _ maxLen 1).1
  rw [lookUpMatch, if_pos h]
  exact Nat.mod_eq_of_lt (by omega)

theorem findMatch_of_dead (h : s.matchLen = 0) : findMatch s = lookUpMatch s := by
  obtain ⟨halive, -⟩ | ⟨-, hfind⟩ := findMatch_cases s
  · simp [h] at halive
  · exact hfind
end

/-! ### The finder inside an `UPD` -/

/-- The command from `s` to `t` ran its match finder on `u`: the match registers and the hash table are still those of `s`,
the position, the hash and the buffer already those of `t`, and the match registers of `t` are what the finder left. -/
structure FinderRanOn (s u t : State) : Prop where
  entry_matchLen : u.matchLen = s.matchLen
  entry_matchPos : u.matchPos = s.matchPos
  entry_hashEntry : ∀ j, u.hashEntry j = s.hashEntry j
  pos : u.pos = t.pos
  h : u.h = t.h
  buffer : ∀ j, u.bufferByte j = t.bufferByte j
  matchLen : t.matchLen = (findMatch u).matchLen
  matchPos : t.matchPos = (findMatch u).matchPos

section
variable (r : Rom) (y : Bit) {s : State}

theorem takeBit_trained_boundary (hlow : 128 ≤ s.c0.toNat) (hhigh : s.c0.toNat ≤ 255) :
    takeBit r y (trainActiveMixer y s) = completeByte r (foldBit y (trainActiveMixer y s)) :=
  takeBit_boundary _ _ _ (by simp only [trainActiveMixer_frame]; omega)

/-- On the first bit of a byte no match is killed, so the finder's length stands (R186). -/
theorem updState_matchLen_boundary (hlow : 128 ≤ s.c0.toNat) (hhigh : s.c0.toNat ≤ 255) :
    (updState r y s).matchLen = (completeByte r (foldBit y (trainActiveMixer y s))).matchLen := by
  have ht := takeBit_trained_boundary r y hlow hhigh
  have hagrees : matchAgrees (updState r y s) = true := matchAgrees_start _ (by simp [ht]) (by simp [ht])
  rw [updState_matchLen, if_pos hagrees, ht]

/-- At a byte boundary the finder runs after the byte is absorbed, the mixer selected and the bases recomputed (R116). -/
theorem updState_finderRanOn (hlow : 128 ≤ s.c0.toNat) (hhigh : s.c0.toNat ≤ 255) :
    ∃ u, FinderRanOn s u (updState r y s) := by
  have ht := takeBit_trained_boundary r y hlow hhigh
  obtain ⟨hlen, hpos⟩ := completeByte_match r (foldBit y (trainActiveMixer y s))
  have hkept : (updState r y s).matchPos = (takeBit r y (trainActiveMixer y s)).matchPos := by simp
  refine ⟨_, {
    matchLen := (updState_matchLen_boundary r y hlow hhigh).trans hlen
    matchPos := (hkept.trans (congrArg State.matchPos ht)).trans hpos
    entry_matchLen := by simp
    entry_matchPos := by simp
    entry_hashEntry := by simp
    pos := by simp [ht]
    h := by simp [ht]
    buffer := by simp [ht] }⟩

/-- The table takes the new position at the new hash, whatever the finder did (R182). -/
theorem updState_hashEntry_boundary (hlow : 128 ≤ s.c0.toNat) (hhigh : s.c0.toNat ≤ 255) :
    (updState r y s).hashEntry (updState r y s).h.toNat = (updState r y s).pos := by
  have ht := takeBit_trained_boundary r y hlow hhigh
  have hh : (updState r y s).h = (completeByte r (foldBit y (trainActiveMixer y s))).h := by simp [ht]
  rw [hh, (updState_taken_reads r y s _).2, ht, completeByte_hashEntry, if_pos rfl]
  simp [ht]
end

theorem FinderRanOn.respond {s u t : State} (hf : FinderRanOn s u t) (c : ResponseCode) (v : Prob) :
    FinderRanOn s u (t.respond c v) := { hf with }

namespace FinderRanOn
variable {s u t : State} (hf : FinderRanOn s u t)
include hf

/-- The candidate is the entry at the new hash that the command found on entry. -/
theorem candidate : u.hashEntry u.h.toNat = s.hashEntry t.h.toNat := by
  rw [hf.entry_hashEntry, hf.h]

theorem candidateOk_iff (p : Word) : candidateOk u p = true ↔ p ≠ 0 ∧ (t.pos - p).toInt ≤ 2 ^ 26 - 1 := by
  rw [Machine.candidateOk_iff, hf.pos]

theorem walkAgrees_iff (p : Word) (d : Nat) : walkAgrees u p d = true ↔
    t.bufferByte (((t.pos.toInt - d) % 2 ^ 26).toNat) = t.bufferByte (((p.toInt - d) % 2 ^ 26).toNat) := by
  rw [Machine.walkAgrees_iff, hf.pos, hf.buffer, hf.buffer]

end FinderRanOn

/-! ### The gathered state maps -/

/-- The seven state maps come before the match input (R118). -/
theorem gatherInputs_map (r : Rom) (s : State) (k : Fin 7) : (gatherInputs r s)[k.val] = mapInput r s k := by
  simp [gatherInputs]

/-- A state map reads the pointers and the slots alone (R172). -/
theorem mapInput_congr (r : Rom) {s t : State} (hcp : t.cp = s.cp) (hslot : ∀ i, t.slot i = s.slot i) (k : Fin 7) :
    mapInput r t k = mapInput r s k := by
  rw [mapInput, mapInput, hcp, hslot]

/-- The active record caches the inputs gathered after step 4 (R119, R172). -/
theorem updState_mapInput (r : Rom) (y : Bit) (s : State) (k : Fin 7) :
    ((updState r y s).mixer (updState r y s).mixIdx.toNat).p[k.val] = mapInput r (updState r y s) k := by
  rw [updState_mixer, if_pos rfl, mapInput_congr r (updState_advanced r y s).1 (updState_slot r y s)]
  exact gatherInputs_map r _ k

/-! ### The statements -/

/-- Settles O25: the table is written after the finder, at the hash and with the position that the command leaves. -/
theorem updRecordsThePosition : Obligations.UpdRecordsThePosition := by
  unfold Obligations.UpdRecordsThePosition
  intro y s ha hlow hhigh
  refine ⟨_, exec_upd_accepted ha, ?_⟩
  rw [State.hashEntry_respond, State.respond_h, State.respond_pos, updState_hashEntry_boundary Config.rom y hlow hhigh]

/-- Settles O27: with no match alive the finder is the lookup, on the state the command leaves but for the table and the
match registers, and the length it finds is what the backward walk counts. -/
theorem updLooksUpAMatch : Obligations.UpdLooksUpAMatch := by
  unfold Obligations.UpdLooksUpAMatch
  intro y s ha hlow hhigh hdead
  obtain ⟨u, hupd⟩ := updState_finderRanOn Config.rom y hlow hhigh
  refine ⟨_, exec_upd_accepted ha, ?_⟩
  have hf := hupd.respond .ok 0
  generalize (updState Config.rom y s).respond .ok 0 = t at hf
  have hfind : findMatch u = lookUpMatch u := findMatch_of_dead (hf.entry_matchLen.trans hdead)
  have hlen := hf.matchLen
  have hpos := hf.matchPos
  rw [hfind] at hlen hpos
  simp only [← hf.candidate, ← hf.candidateOk_iff, ← hf.walkAgrees_iff]
  refine ⟨fun hok => ?found, fun hno => ?none⟩
  case found =>
    have hcount := lookUpMatch_matchLen hok
    rw [← hlen] at hcount
    obtain ⟨hle, hagree, hstop⟩ := walkBack_spec u (u.hashEntry u.h.toNat) maxLen 1
    rw [← hcount] at hle hagree hstop
    refine ⟨hpos.trans (lookUpMatch_matchPos hok), hle, fun d h1 hd => hagree d h1 (by omega), fun hlt => ?_⟩
    rw [Nat.add_comm, hstop hlt]
    exact Bool.false_ne_true
  case none =>
    rw [lookUpMatch_of_not_candidateOk hno] at hlen hpos
    exact ⟨hpos.trans hf.entry_matchPos, (hlen.trans hf.entry_matchLen).trans hdead⟩

/-- Settles O37: step 5 gathers on the state step 4 leaves, and steps 6 to 8 move no pointer and no slot. -/
theorem updGathersTheStateMaps : Obligations.UpdGathersTheStateMaps := by
  unfold Obligations.UpdGathersTheStateMaps
  intro y s ha
  refine ⟨_, exec_upd_accepted ha, fun k => ?_⟩
  rw [State.mixer_respond, State.respond_mixIdx, State.slot_respond, State.respond_cp, updState_mapInput]
  rfl

/-- Settles O32: the strength lies between 1 and 32, so 64 times it does not wrap. -/
theorem matchStrengthTable : Obligations.MatchStrengthTable := by
  unfold Obligations.MatchStrengthTable
  intro n hlive hcap
  have hvalue := matchStrength_toNat n
  have hbounds : 1 ≤ (matchStrength n).toNat ∧ (matchStrength n).toNat ≤ 32 := by
    rw [hvalue]
    split_ifs <;> omega
  have hscaled : (matchStrength n * 64).toNat = (matchStrength n).toNat * 64 := by
    rw [BitVec.toNat_mul]
    exact Nat.mod_eq_of_lt (by change (matchStrength n).toNat * 64 < _; omega)
  exact ⟨hvalue, by omega, by omega⟩

end Sys2Proof.Machine

/-! ## The mixer, and the defaults of `SQUASH` and `STRETCH` (R196, R198, R203)

An `UPD` trains the record active on entry and runs the record active after step 3, which may be the same one: the forward
pass writes only the cached inputs and output, so what training wrote stands either way. The default `STRETCH` is a search
upward from −2047, and a search for the first argument that reaches `p` finds the smallest; only for 4095, which no
interpolated value of `SQUASH` reaches, does it run to its end. -/

namespace Sys2Proof.Machine

/-! ### The forward pass -/

/-- The running sum of the block is the rule's sum, whatever the order, since addition wraps (R196). -/
theorem dotProduct_eq_sum (m : Mixer) (p : Vector Word 8) :
    dotProduct m p = (∑ i : Fin 8, m.w[i] * p[i]) + m.skew := by
  rw [Fin.sum_univ_eight, add_comm, dotProduct]
  simp only [← add_assoc]
  rfl

/-- The forward pass leaves in the record the output for the weights, the skew and the inputs it leaves there (R196). -/
theorem Mixer.forward_pr (r : Rom) (p : Vector Word 8) (m : Mixer) :
    (m.forward r p).pr = mixOutput r (m.forward r p) (m.forward r p).p := rfl

theorem updState_mixOutput (r : Rom) (y : Bit) (s : State) :
    ((updState r y s).mixer (updState r y s).mixIdx.toNat).pr =
      mixOutput r ((updState r y s).mixer (updState r y s).mixIdx.toNat)
        ((updState r y s).mixer (updState r y s).mixIdx.toNat).p := by
  rw [updState_mixer, if_pos rfl]
  exact Mixer.forward_pr r _ _

/-- Settles O38: after the forward pass no step of an `UPD` writes the pool, and the record's sum is the rule's. -/
theorem updMixesTheInputs : Obligations.UpdMixesTheInputs := by
  unfold Obligations.UpdMixesTheInputs
  intro y s ha
  refine ⟨_, exec_upd_accepted ha, ?_⟩
  simp only [State.mixer_respond, State.respond_mixIdx, ← dotProduct_eq_sum]
  exact updState_mixOutput Config.rom y s

/-! ### The weight update -/

/-- A zero error writes nothing (R209). -/
theorem Mixer.train_of_rawError_eq_zero {y : Bit} {m : Mixer} (h : m.rawError y = 0) : m.train y = m := if_pos h

/-- A non-zero error moves the rate, the skew and every weight, each from the record as it was (R198). -/
theorem Mixer.train_of_rawError_ne_zero {y : Bit} {m : Mixer} (h : m.rawError y ≠ 0) :
    (m.train y).skew = m.skew + m.scaledError y ∧
    (m.train y).learnRate = m.learnRate + asr (endRate - m.learnRate) 31 ∧
    ∀ i : Fin 8, (m.train y).w[i] = m.w[i] + asr (m.p[i] * m.scaledError y) 15 := by
  rw [Mixer.train, if_neg h]
  exact ⟨rfl, rfl, fun i => Vector.getElem_ofFn i.isLt⟩

/-- The record active on entry keeps what step 1 wrote, also when step 6 runs it (R119, R122). -/
theorem updState_trained (r : Rom) (y : Bit) (s : State) :
    ((updState r y s).mixer s.mixIdx.toNat).w = ((s.mixer s.mixIdx.toNat).train y).w ∧
    ((updState r y s).mixer s.mixIdx.toNat).skew = ((s.mixer s.mixIdx.toNat).train y).skew ∧
    ((updState r y s).mixer s.mixIdx.toNat).learnRate = ((s.mixer s.mixIdx.toNat).train y).learnRate := by
  have htrained : (trainActiveMixer y s).mixer s.mixIdx.toNat = (s.mixer s.mixIdx.toNat).train y := by
    rw [trainActiveMixer_mixer, if_pos rfl]
  rw [updState_mixer, htrained]
  split
  · generalize gatherInputs r _ = p
    obtain ⟨hw, hskew, hrate, -, -⟩ := Mixer.forward_fields r p ((s.mixer s.mixIdx.toNat).train y)
    exact ⟨hw, hskew, hrate⟩
  · exact ⟨rfl, rfl, rfl⟩

/-- Settles O39: step 1 trains the record, and step 6 leaves the weights, the skew and the rate. -/
theorem updTrainsTheActiveMixer : Obligations.UpdTrainsTheActiveMixer := by
  unfold Obligations.UpdTrainsTheActiveMixer
  intro y s ha
  refine ⟨_, exec_upd_accepted ha, ?_⟩
  rw [State.mixer_respond]
  obtain ⟨hw, hskew, hrate⟩ := updState_trained Config.rom y s
  refine ⟨fun hzero => ?zeroError, fun herror => ?error⟩
  case zeroError =>
    rw [hw, hskew, hrate, Mixer.train_of_rawError_eq_zero hzero]
    exact ⟨rfl, rfl, rfl⟩
  case error =>
    rw [hw, hskew, hrate]
    exact Mixer.train_of_rawError_ne_zero herror

/-! ### The default `SQUASH` below its upper saturation (R201) -/

theorem squashKnot_toNat_le (i : Word) : (squashKnot i).toNat ≤ 4094 := by
  have hknots : ∀ k ∈ squashKnots, k ≤ 4094 := by decide
  have hknot : squashKnots.getD i.toNat 0 ≤ 4094 := by
    rw [List.getD_eq_getElem?_getD]
    cases hget : squashKnots[i.toNat]? with
    | none => exact Nat.zero_le _
    | some k => exact hknots k (List.mem_of_getElem? hget)
  exact (Nat.mod_le _ _).trans hknot

/-- A weighted mean of two values up to 4094, rounded to nearest, is at most 4094. -/
theorem weightedMean_toNat_le {a b w : Word} (ha : a.toNat ≤ 4094) (hb : b.toNat ≤ 4094) (hw : w.toNat ≤ 128) :
    (asr (a * (128 - w) + b * w + 64) 7).toNat ≤ 4094 := by
  have hrest : (128 - w).toNat = 128 - w.toNat := BitVec.toNat_sub_of_le hw
  have hmean : a.toNat * (128 - w.toNat) + b.toNat * w.toNat ≤ 4094 * 128 := calc
    _ ≤ 4094 * (128 - w.toNat) + 4094 * w.toNat := Nat.add_le_add (Nat.mul_le_mul_right _ ha) (Nat.mul_le_mul_right _ hb)
    _ = 4094 * 128 := by omega
  have hsum : (a * (128 - w) + b * w + 64).toNat = a.toNat * (128 - w.toNat) + b.toNat * w.toNat + 64 := by
    simp only [BitVec.toNat_add, BitVec.toNat_mul, hrest]
    change ((_ + _) % _ + 64) % _ = _
    omega
  rw [asr, BitVec.sshiftRight_eq_of_msb_false (BitVec.msb_eq_false_iff_two_mul_lt.2 (by omega)),
    BitVec.toNat_ushiftRight, hsum, Nat.shiftRight_eq_div_pow]
  omega

/-- Only the upper saturation gives 4095: up to 2047 the default `SQUASH` stays below it (R201). -/
theorem squashDefault_toNat_le {d : Word} (hd : d.toInt ≤ 2047) : (squashDefault d).toNat ≤ 4094 := by
  have hupper : ¬(2047#32).slt d = true := by
    rw [BitVec.slt_iff_toInt_lt]
    exact not_lt.2 hd
  rw [squashDefault, if_neg hupper]
  split
  case isTrue => exact Nat.zero_le _
  case isFalse =>
    have hweight : (d &&& 127).toNat ≤ 128 := by
      rw [BitVec.toNat_and]
      exact Nat.and_le_right.trans (by decide)
    rw [BitVec.toNat_setWidth]
    exact (Nat.mod_le _ _).trans
      (weightedMean_toNat_le (squashKnot_toNat_le _) (squashKnot_toNat_le _) hweight)

/-! ### The search that fills the default `STRETCH` (R203) -/

/-- The search stops inside its interval, past every argument below `p` and, if short of the end, at one that reaches
it. -/
theorem firstReaching_spec (p : Prob) (fuel : Nat) (a : Int) : ∃ x : Int, a ≤ x ∧ x ≤ a + fuel ∧
    firstReaching p fuel (BitVec.ofInt 32 a) = BitVec.ofInt 32 x ∧
    (∀ z, a ≤ z → z < x → squashDefault (BitVec.ofInt 32 z) < p) ∧
    (x < a + fuel → p ≤ squashDefault (BitVec.ofInt 32 x)) := by
  induction fuel generalizing a with
  | zero => exact ⟨a, le_rfl, by omega, rfl, fun z _ _ => by omega, fun _ => by omega⟩
  | succ fuel ih =>
    by_cases hreach : p ≤ squashDefault (BitVec.ofInt 32 a)
    · exact ⟨a, le_rfl, by omega, if_pos hreach, fun z _ _ => by omega, fun _ => hreach⟩
    · obtain ⟨x, hlow, hhigh, hfound, hbelow, hstop⟩ := ih (a + 1)
      have hnext : firstReaching p (fuel + 1) (BitVec.ofInt 32 a) = BitVec.ofInt 32 x := by
        rw [firstReaching, if_neg hreach, ← hfound, BitVec.ofInt_add]
        rfl
      refine ⟨x, by omega, by omega, hnext, fun z haz hzx => ?_, fun hx => hstop (by omega)⟩
      obtain rfl | hz := haz.eq_or_lt
      · exact BitVec.not_le.1 hreach
      · exact hbelow z hz hzx

/-- The search from −2047 stays in the interval of R203; only its end 2047 may fail to reach `p`. -/
theorem stretchDefault_spec (p : Prob) : -2047 ≤ (stretchDefault p).toInt ∧ (stretchDefault p).toInt ≤ 2047 ∧
    (∀ z : Int, -2047 ≤ z → z < (stretchDefault p).toInt → squashDefault (BitVec.ofInt 32 z) < p) ∧
    ((stretchDefault p).toInt < 2047 → p ≤ squashDefault (stretchDefault p)) := by
  obtain ⟨x, hlow, hhigh, hfound, hbelow, hstop⟩ := firstReaching_spec p 4094 (-2047)
  have hword : stretchDefault p = BitVec.ofInt 32 x := hfound
  have hint : (stretchDefault p).toInt = x := by
    rw [hword]
    exact BitVec.toInt_ofInt_eq_self (by norm_num) (by omega) (by omega)
  rw [hint, hword]
  exact ⟨hlow, by omega, hbelow, fun hx => hstop (by omega)⟩

/-- Settles O58: the search finds the smallest argument that reaches `p`; 2047 reaches 4094, and nothing up to 2047 reaches
4095. -/
theorem defaultStretchIsTheSmallestArgumentReachingIt :
    Obligations.DefaultStretchIsTheSmallestArgumentReachingIt := by
  unfold Obligations.DefaultStretchIsTheSmallestArgumentReachingIt
  refine ⟨?top, fun p hp => ?reached⟩
  case top =>
    obtain ⟨-, hhigh, -, hstop⟩ := stretchDefault_spec 4095
    have hend : ¬(stretchDefault 4095).toInt < 2047 := fun hlt => by
      have hreach : 4095 ≤ (squashDefault (stretchDefault 4095)).toNat := hstop hlt
      have hle := squashDefault_toNat_le hhigh
      omega
    exact BitVec.eq_of_toInt_eq (hhigh.antisymm (not_lt.1 hend))
  case reached =>
    obtain ⟨hlow, hhigh, hbelow, hstop⟩ := stretchDefault_spec p
    refine ⟨hlow, hhigh, ?_, hbelow⟩
    obtain hend | hlt := hhigh.eq_or_lt
    · have htop : stretchDefault p = 2047 := BitVec.eq_of_toInt_eq hend
      have hvalue : (squashDefault 2047).toNat = 4094 := by decide
      rw [htop, hvalue]
      exact hp
    · exact hstop hlt

end Sys2Proof.Machine

/-! ## Steps 7 and 8, the secondary probability map (R218 to R221, R225)

Neither step wraps or truncates. A cell moved by one 128th of its distance to 0 or 65536 stays between 0 and 65535, the
products of the interpolation fit in 24 bits because its two weights sum to 128, and an element of the grid has an index
of 22 bits. So each 32-bit expression of the block is read as the exact number it stands for, and the statements compose
these readings. -/

namespace Sys2Proof.Machine

/-- The arithmetic shift divides by a power of two and rounds down (R13). -/
theorem asr_toInt (a : Word) (n : Nat) : (asr a n).toInt = a.toInt / 2 ^ n := by
  rw [asr, BitVec.toInt_sshiftRight, Int.shiftRight_eq_div_pow]
  norm_cast

/-- Of a word that is not negative it divides the plain value (R13). -/
theorem asr_toNat {a : Word} (h : a.toNat < 2 ^ 31) (n : Nat) : (asr a n).toNat = a.toNat / 2 ^ n := by
  rw [asr, BitVec.sshiftRight_eq_of_msb_false (BitVec.msb_eq_false_iff_two_mul_lt.2 (by omega)),
    BitVec.toNat_ushiftRight, Nat.shiftRight_eq_div_pow]

/-! ### The training write (R219) -/

/-- The signed distance from a cell to the target `y << 16`. -/
theorem trainDistance_toInt (y : Bit) (c : Cell16) :
    (y.setWidth 32 <<< 16 - c.setWidth 32).toInt = 65536 * y.toNat - c.toNat := by
  have hy := Bit.toNat_le y
  have hc := c.isLt
  have htarget : (y.setWidth 32 <<< 16).toInt = 65536 * y.toNat := by
    rw [BitVec.toInt_eq_toNat_cond, BitVec.toNat_shiftLeft, BitVec.toNat_setWidth, Nat.shiftLeft_eq]
    omega
  have hcell : (c.setWidth 32).toInt = c.toNat := by
    rw [BitVec.toInt_eq_toNat_cond, BitVec.toNat_setWidth]
    omega
  rw [BitVec.toInt_sub, htarget, hcell]
  exact Int.bmod_eq_of_le (by omega) (by omega)

/-- A cell moves by one 128th of the distance, rounded down, and the 16-bit store truncates nothing. -/
theorem trainCell_toNat (y : Bit) (c : Cell16) :
    ((trainCell y c).toNat : Int) = c.toNat + (65536 * y.toNat - c.toNat) / 128 := by
  have hy := Bit.toNat_le y
  have hc := c.isLt
  have hmove : (asr (y.setWidth 32 <<< 16 - c.setWidth 32) apmRate).toInt = (65536 * y.toNat - c.toNat) / 128 := by
    rw [asr_toInt, trainDistance_toInt]
    rfl
  rw [BitVec.toInt_eq_toNat_cond] at hmove
  rw [trainCell, BitVec.toNat_setWidth, BitVec.toNat_add, BitVec.toNat_setWidth]
  omega

/-- Settles O42: an `UPD` writes the two cells in step 7 alone, and the exact move is the floor of a distance that is
positive for a 1 and negative for a 0. -/
theorem updTrainsTheTwoCells : Obligations.UpdTrainsTheTwoCells := by
  unfold Obligations.UpdTrainsTheTwoCells
  intro y s ha
  refine ⟨_, exec_upd_accepted ha, fun i hi => ?_⟩
  rw [State.apmCell_respond, updState_apmCell, if_pos hi]
  have htrained := trainCell_toNat y (s.apmCell Config.rom i)
  have hcell := (s.apmCell Config.rom i).isLt
  have hy := Bit.toNat_le y
  have hone : y = 1 ↔ y.toNat = 1 := BitVec.toNat_inj.symm
  simp only [hone]
  split <;> omega

/-! ### The lookup (R218, R220, R221) -/

/-- The clamp of the block, two signed comparisons, is the clamp of the number. -/
theorem stretched_toInt (r : Rom) (p : Prob) :
    (stretched r p).toInt = max (-2047) (min 2047 (r.stretch p).toInt) := by
  have hhigh : (2047#32).toInt = 2047 := by decide
  have hlow : (-2047#32).toInt = -2047 := by decide
  unfold stretched
  simp only [BitVec.slt_iff_toInt_lt, hhigh, hlow]
  split_ifs
  · exact hhigh.trans (by omega)
  · exact hlow.trans (by omega)
  · omega

/-- A clamped stretch selects the column of its knot, 0 to 31. -/
theorem apmColumnOf_toNat {sx : Word} (hlow : -2047 ≤ sx.toInt) (hhigh : sx.toInt ≤ 2047) :
    (apmColumnOf sx).toNat = ((sx.toInt + 2048) / 128).toNat := by
  have hshift : (2048 : Word).toNat = 2048 := rfl
  have hsum : (sx + 2048).toNat = (sx.toInt + 2048).toNat := by
    rw [BitVec.toInt_eq_toNat_cond] at *
    rw [BitVec.toNat_add, hshift]
    omega
  rw [apmColumnOf, asr_toNat (by omega), hsum]
  omega

/-- The low 7 bits of a signed word are its remainder modulo 128. -/
theorem apmWeight_toNat (sx : Word) : (apmWeight sx).toNat = (sx.toInt % 128).toNat := by
  rw [apmWeight, BitVec.toNat_and]
  change sx.toNat &&& (2 ^ 7 - 1) = _
  rw [Nat.and_two_pow_sub_one_eq_mod, BitVec.toInt_eq_toNat_cond]
  omega

theorem apmContext_toNat_lt (c0 : BitVec 9) (c4 : Word) : (apmContext c0 c4).toNat < 2 ^ 16 := by
  have hc0 := c0.isLt
  rw [apmContext, BitVec.toNat_or, BitVec.toNat_and, BitVec.toNat_setWidth]
  exact Nat.or_lt_two_pow (by omega) (Nat.and_lt_two_pow _ (by decide))

/-- The last element of the grid has an index of 22 bits. -/
theorem apmIndex_toNat {ctx k : Word} (hctx : ctx.toNat < 2 ^ 16) (hk : k.toNat ≤ 31) :
    (apmIndex ctx k).toNat = ctx.toNat * 33 + k.toNat := by
  have hscale : (33 : Word).toNat = 33 := rfl
  rw [apmIndex, BitVec.toNat_setWidth, BitVec.toNat_add, BitVec.toNat_mul, hscale]
  omega

/-- The weights sum to 128, so the products sum to at most 24 bits and the shift by 11 leaves 12. -/
theorem interpolate_toNat (a b : Cell16) {w : Word} (hw : w.toNat ≤ 128) :
    (interpolate a b w).toNat = (a.toNat * (128 - w.toNat) + b.toNat * w.toNat) / 2048 := by
  have ha : a.toNat * (128 - w.toNat) ≤ 65535 * (128 - w.toNat) := Nat.mul_le_mul_right _ (by omega)
  have hb : b.toNat * w.toNat ≤ 65535 * w.toNat := Nat.mul_le_mul_right _ (by omega)
  have hrest : (128 - w).toNat = 128 - w.toNat := BitVec.toNat_sub_of_le hw
  have hsum : (a.setWidth 32 * (128 - w) + b.setWidth 32 * w).toNat =
      a.toNat * (128 - w.toNat) + b.toNat * w.toNat := by
    rw [BitVec.toNat_add, BitVec.toNat_mul, BitVec.toNat_mul, hrest, BitVec.toNat_setWidth_of_le (by decide),
      BitVec.toNat_setWidth_of_le (by decide)]
    omega
  rw [interpolate, BitVec.toNat_setWidth, asr_toNat (by omega), hsum]
  omega

/-! ### The bias step (R225) -/

/-- Only 2047 is moved: 2048 takes the same branch and gains nothing. -/
theorem bias_of_ne {a : Prob} (h : a ≠ 2047) : bias a = a := by
  by_cases hcentre : a = 2048
  · subst hcentre
    decide
  · exact if_neg (not_or.2 ⟨h, hcentre⟩)

theorem bias_toNat (a : Prob) : (bias a).toNat = if a.toNat = 2047 then 2046 else a.toNat := by
  by_cases h : a = 2047
  · subst h
    decide
  · have hvalue : ¬a.toNat = 2047 := fun hn => h (BitVec.eq_of_toNat_eq hn)
    rw [bias_of_ne h, if_neg hvalue]

/-- Settles O43: the clamp bounds the column and the weight, and with the 16 bits of the context every number of the
lookup is exact. -/
theorem updRefinesTheMixerOutput : Obligations.UpdRefinesTheMixerOutput := by
  unfold Obligations.UpdRefinesTheMixerOutput
  intro y s ha
  refine ⟨_, exec_upd_accepted ha, ?_⟩
  simp only [State.mixer_respond, State.respond_mixIdx, State.apmCell_respond, State.respond_apmIdx, State.respond_pr,
    State.respond_c0, State.respond_c4]
  obtain ⟨hindex, hpr⟩ := updState_refined Config.rom y s
  generalize updState Config.rom y s = t at *
  have hstretch : (stretched Config.rom (t.mixer t.mixIdx.toNat).pr).toInt =
      max (-2047) (min 2047 (Config.stretch (t.mixer t.mixIdx.toNat).pr).toInt) := stretched_toInt _ _
  generalize stretched Config.rom (t.mixer t.mixIdx.toNat).pr = sx at *
  rw [← hstretch]
  have hcolumn := apmColumnOf_toNat (sx := sx) (by omega) (by omega)
  have hweight := apmWeight_toNat sx
  refine ⟨?index, ?value⟩
  case index =>
    rw [hindex, apmIndex_toNat (apmContext_toNat_lt _ _) (by omega), hcolumn]
    rfl
  case value =>
    rw [hpr, bias_toNat, interpolate_toNat _ _ (by omega), hweight]

end Sys2Proof.Machine

/-! ## The two errors (R236 to R240)

The response word carries its code in its upper bits, so a response tells which of the three cases happened. Decoding
refuses exactly the words of no row (R91), `exec` answers an overrun for a refused `UPD` alone, and neither error writes
anything but the response port. -/

namespace Sys2Proof.Machine

/-! ### What a response tells (R92) -/

/-- The upper four bits of a response word are its error bit and its code. -/
theorem responseWord_upper (c : ResponseCode) (v : Prob) :
    (responseWord c v).extractLsb' 12 4 = errBit c ++ codeField c :=
  BitVec.extractLsb'_append_eq_left

/-- Two responses that are one word have one code: the prediction field does not reach the code. -/
theorem code_eq_of_responseWord_eq {c d : ResponseCode} {v u : Prob} (h : responseWord c v = responseWord d u) :
    c = d := by
  have hupper : errBit c ++ codeField c = errBit d ++ codeField d := by
    rw [← responseWord_upper c v, h, responseWord_upper]
  revert hupper
  cases c <;> cases d <;> decide

theorem responseWord_illegalCommand : responseWord .illegalCommand 0 = 0x9000 := rfl

theorem responseWord_positionOverrun : responseWord .positionOverrun 0 = 0xA000 := rfl

/-- What a command answers: it completes, or it is a refused `UPD` (R105, R239, R240). -/
theorem exec_responds {i : Instr} {s t : State} (h : exec i s = .next t) : ∃ c v, t.rsp = some (responseWord c v) ∧
    (c = .ok ∨ c = .positionOverrun ∧ (∃ y, i = .upd y) ∧ ¬UpdAccepted s) := by
  rcases exec_cases h with ⟨-, rfl⟩ | ⟨y, rfl, hover, rfl⟩ | ⟨y, -, -, rfl⟩ | ⟨ss, ms, -, rfl⟩
  · exact ⟨_, _, rfl, .inl rfl⟩
  · exact ⟨_, _, rfl, .inr ⟨rfl, ⟨y, rfl⟩, hover⟩⟩
  · exact ⟨_, _, rfl, .inl rfl⟩
  · exact ⟨_, _, rfl, .inl rfl⟩

/-- Read backwards, the code in a command's response tells which it was. -/
theorem exec_code {i : Instr} {s t : State} {c : ResponseCode} {v : Prob} (h : exec i s = .next t)
    (hr : t.rsp = some (responseWord c v)) :
    c = .ok ∨ c = .positionOverrun ∧ (∃ y, i = .upd y) ∧ ¬UpdAccepted s := by
  obtain ⟨d, u, hd, hcase⟩ := exec_responds h
  obtain rfl : d = c := code_eq_of_responseWord_eq (Option.some.inj (hd.symm.trans hr))
  exact hcase

/-- The overrun response tells a refused `UPD` (R239). -/
theorem refused_of_rsp {i : Instr} {s t : State} (h : exec i s = .next t) (hr : t.rsp = some 0xA000) :
    (∃ y, i = .upd y) ∧ ¬UpdAccepted s := by
  rw [← responseWord_positionOverrun] at hr
  rcases exec_code h hr with hok | ⟨-, hrefused⟩
  · cases hok
  · exact hrefused

/-- No command answers as an illegal word does (R241). -/
theorem exec_rsp_ne_illegal {i : Instr} {s t : State} (h : exec i s = .next t) : t.rsp ≠ some 0x9000 := by
  rw [← responseWord_illegalCommand]
  intro hr
  rcases exec_code h hr with hok | ⟨hover, -⟩
  · cases hok
  · cases hover

/-! ### The illegal word (R91, R237) -/

theorem isProbWord_iff (w : Byte) : isProbWord w = true ↔ w = 0 := by
  have hmask : w &&& 0xFF#8 = w := BitVec.and_allOnes
  rw [isProbWord, hmask]
  exact beq_iff_eq

theorem isUpdWord_iff (w : Byte) : isUpdWord w = true ↔ w &&& 0xFE = 0x40 := beq_iff_eq

theorem isInitWord_iff (w : Byte) : isInitWord w = true ↔ w &&& 0xC3 = 0x80 := beq_iff_eq

/-- The decoder's three tests are the three rows (R96, R91). -/
theorem decode_isSome (w : Byte) : (decode w).isSome = legalWord w := by
  rw [Bool.eq_iff_iff, legalWord, Bool.or_eq_true, Bool.or_eq_true, isProbWord_iff, isUpdWord_iff, isInitWord_iff]
  unfold decode
  split
  next hprob => simp [hprob]
  next hprob =>
    split
    next hupd => simp [hupd]
    next hupd =>
      split
      next hinit => simp [hinit]
      next hinit => simp [hprob, hupd, hinit]

/-- The step on a word of no row takes it from the port and answers; nothing else changes. -/
theorem step_illegal {s : State} {w : Byte} {rest : List Byte} (hs : s.cmdIn = w :: rest) (hw : legalWord w = false) :
    step s = .next { s with cmdIn := rest, rsp := some 0x9000 } := by
  have hnone : decode w = none := Option.not_isSome_iff_eq_none.1 (by simp [decode_isSome, hw])
  rw [step_word hs, hnone]
  rfl

/-- A step on a word of one of the rows runs its command, which does not answer as an illegal word does. -/
theorem step_legal_rsp_ne_illegal {s t : State} {w : Byte} {rest : List Byte} (hs : s.cmdIn = w :: rest)
    (hw : legalWord w = true) (h : step s = .next t) : t.rsp ≠ some 0x9000 := by
  obtain ⟨i, hi⟩ := Option.isSome_iff_exists.1 ((decode_isSome w).trans hw)
  rw [step_word hs, hi] at h
  exact exec_rsp_ne_illegal h

/-- How many of the `n` words from `lo` on match no row. -/
def illegalCount (lo n : Nat) : Nat := (List.range' lo n).countP fun k => !legalWord (BitVec.ofNat 8 k)

theorem illegalCount_add (lo m n : Nat) : illegalCount lo (m + n) = illegalCount lo m + illegalCount (lo + m) n := by
  rw [illegalCount, ← List.range'_append_1, List.countP_append]
  rfl

/-- `op` by `op`, the rows leave 63, 62, 48 and 64 of its 64 words without a meaning (R91). -/
theorem illegalCount_of_op : illegalCount 0 64 = 63 ∧ illegalCount 64 64 = 62 ∧ illegalCount 128 64 = 48 ∧
    illegalCount 192 64 = 64 := by
  decide

theorem illegalCount_all : illegalCount 0 256 = 237 := by
  obtain ⟨hzero, hone, htwo, hthree⟩ := illegalCount_of_op
  rw [illegalCount_add 0 64 192, illegalCount_add 64 64 128, illegalCount_add 128 64 64, hzero, hone, htwo, hthree]

/-- Settles O7: the decoder refuses exactly the words of no row, and no command answers as such a word does. -/
theorem stepRefusesIllegalWord : Obligations.StepRefusesIllegalWord := by
  unfold Obligations.StepRefusesIllegalWord
  refine ⟨fun s w rest => step_illegal, fun s w rest t hs hstep hr => ?only, ?count⟩
  case only =>
    rw [← Bool.not_eq_true]
    exact fun hw => step_legal_rsp_ne_illegal hs hw hstep hr
  case count =>
    rw [List.range_eq_range']
    exact illegalCount_all

/-! ### Completion (R240) -/

/-- Settles O17: step 0 is the only check, and no command stops. -/
theorem updCompletesWhenAccepted : Obligations.UpdCompletesWhenAccepted := by
  unfold Obligations.UpdCompletesWhenAccepted
  refine ⟨fun y s ha => ⟨_, exec_upd_accepted ha, rfl⟩, fun s => ⟨_, exec_prob_eq_setRsp s, rfl⟩, ?noFault⟩
  case noFault =>
    intro i s f hf
    obtain ⟨t, ht⟩ := exec_completes s i
    rw [ht] at hf
    cases hf

/-! ### The overrun (R239) -/

/-- The overrunning `UPD` writes the response port alone; the port does not enter the condition. -/
theorem exec_upd_eq_setRsp (y : Bit) {s : State} (hb : s.bpos = 7) (hp : s.pos = 0x7FFFFFFF) :
    exec (.upd y) s = .next { s with rsp := some 0xA000 } :=
  exec_upd_overrun (not_not_intro ⟨hb, hp⟩)

/-- Right after an `INIT` the next `UPD` is accepted, whatever the state before (R239). -/
theorem exec_init_accepts (ss ms : BitVec 2) (s : State) : ∃ t, exec (.init ss ms) s = .next t ∧ UpdAccepted t := by
  refine ⟨_, exec_init_eq_initial ss ms s, updAccepted_of_pos_ne ?_⟩
  change (0 : Word) ≠ 0x7FFFFFFF
  decide

/-- Settles O18: the refusal keeps the registers that cause it, so it lasts until an `INIT`; and only it answers so. -/
theorem updOverrunIsRefused : Obligations.UpdOverrunIsRefused := by
  unfold Obligations.UpdOverrunIsRefused
  refine ⟨fun y s hb hp => ⟨exec_upd_eq_setRsp y hb hp, exec_prob_eq_setRsp _, fun z => exec_upd_eq_setRsp z hb hp,
    fun ss ms => exec_init_accepts ss ms _⟩, fun i s t h hr => ?_⟩
  obtain ⟨hupd, hover⟩ := refused_of_rsp h hr
  exact ⟨hupd, not_not.1 hover⟩

end Sys2Proof.Machine

/-! ## The encoding (R85 to R91, R96)

Each row of the encoding is read field by field: the operand bits stand where the decoder looks for them, so a command
and its word determine each other. A step is then the command its word names, on the state with that word taken. -/

namespace Sys2Proof.Machine

/-! ### Commands and words -/

theorem decode_encode_init (ss ms : BitVec 2) : decode (encode (.init ss ms)) = some (.init ss ms) := by
  revert ss ms
  decide

/-- Decoding reads back every command, with its operands. -/
theorem decode_encode (i : Instr) : decode (encode i) = some i := by
  cases i with
  | prob => rfl
  | upd y => exact decode_encode_upd y
  | init ss ms => exact decode_encode_init ss ms

/-- Settles O1, row by row. -/
theorem decodeOfEncodeIsTheCommand : Obligations.DecodeOfEncodeIsTheCommand := fun i _ => decode_encode i

/-- The word of an `UPD` is its match with the operand in bit 0 (R89). -/
theorem encode_upd (y : Bit) : encode (.upd y) = 0x40#8 ||| y.setWidth 8 := by
  revert y
  decide

/-- A word of the row `UPD` is its match and one operand bit. -/
theorem encode_upd_bitField {w : Byte} (h : w &&& 0xFE#8 = 0x40#8) : encode (.upd (bitField w 0 1)) = w := by
  revert w
  decide

/-- A word of the row `INIT` is its match and two selectors. -/
theorem encode_init_bitField {w : Byte} (h : w &&& 0xC3#8 = 0x80#8) :
    encode (.init (bitField w 4 2) (bitField w 2 2)) = w := by
  revert w
  decide

theorem encode_of_decode {w : Byte} {i : Instr} (h : decode w = some i) : encode i = w := by
  unfold decode at h
  split at h
  next hprob =>
    obtain rfl := Option.some.inj h
    exact hprob.symm
  next =>
    split at h
    next hupd =>
      obtain rfl := Option.some.inj h
      exact encode_upd_bitField hupd
    next =>
      split at h
      next hinit =>
        obtain rfl := Option.some.inj h
        exact encode_init_bitField hinit
      next => cases h

/-- Settles O2, by the decoder's three tests. -/
theorem encodeOfDecodeIsTheWord : Obligations.EncodeOfDecodeIsTheWord := fun _ _ => encode_of_decode

/-- The decoder refuses a word exactly when no row matches it (R91). -/
theorem decode_isNone (w : Byte) : (decode w).isNone = !legalWord w := by
  rw [← decode_isSome, Option.not_isSome]

theorem countP_decode_isNone : (List.range 256).countP (fun n => (decode (BitVec.ofNat 8 n)).isNone) = 237 := by
  simp only [decode_isNone, List.range_eq_range']
  exact illegalCount_all

/-- Every word is read or refused, so the words read are the other 19. -/
theorem countP_decode_isSome : (List.range 256).countP (fun n => (decode (BitVec.ofNat 8 n)).isSome) = 19 := by
  have hsplit := List.length_eq_countP_add_countP (fun n => (decode (BitVec.ofNat 8 n)).isNone) (l := List.range 256)
  simp only [Option.isNone_iff_eq_none, ← Option.isSome_iff_ne_none, Bool.decide_eq_true,
    List.length_range, countP_decode_isNone] at hsplit
  omega

/-- Settles O3: the decoder's tests are the three rows, and the illegal words were counted for R237. -/
theorem decoderRefusesExactlyIllegalWords : Obligations.DecoderRefusesExactlyIllegalWords := by
  refine ⟨fun w => ?_, countP_decode_isSome, countP_decode_isNone⟩
  rw [← Option.isNone_iff_eq_none, decode_isNone, Bool.not_eq_true']

/-- Settles O4: each of the seven words is the word of its command. -/
theorem writtenOutWordsDecode : Obligations.WrittenOutWordsDecode :=
  ⟨decode_encode .prob, decode_encode (.upd 0), decode_encode (.upd 1), decode_encode (.init 0 1),
    decode_encode (.init 1 0), decode_encode (.init 2 2), decode_encode (.init 3 3)⟩

/-! ### Steps -/

/-- Settles O6, by the definition of a step on a presented word. -/
theorem stepRunsTheDecodedCommand : Obligations.StepRunsTheDecodedCommand := by
  intro s w rest i hs hi _
  rw [step_word hs, hi]

/-- Settles O8, by the definition of a step on an empty port. -/
theorem stepWaitsWithoutCommand : Obligations.StepWaitsWithoutCommand := fun _ => step_waiting

/-- The step on an encoded command is that command, on the state with its word taken. -/
theorem step_withStream_encode (i : Instr) (ws : List Byte) (s : State) :
    step (s.withStream (encode i :: ws)) = exec i (s.withStream ws) := by
  rw [step_word (withStream_cmdIn s _), decode_encode, withStream_withStream]

end Sys2Proof.Machine

/-! ## The ports (R74, R126)

No command reads the words still to come or the last response, and none takes a word from the port. So a stream runs as
its commands, and what only answers, a `PROB` or an illegal word, is not seen by the commands after it. -/

namespace Sys2Proof.Machine

/-! ### Commands without the ports -/

/-- A command does alike whatever the ports hold, and leaves the words to come. -/
theorem exec_withPorts {i : Instr} {s t : State} (ws : List Byte) (a : Option (BitVec 16)) (h : exec i s = .next t) :
    exec i (s.withPorts ws a) = .next (t.withStream ws) := by
  rcases exec_cases h with ⟨rfl, rfl⟩ | ⟨y, rfl, hover, rfl⟩ | ⟨y, rfl, ha, rfl⟩ | ⟨ss, ms, rfl, rfl⟩
  · exact exec_prob _
  · exact exec_upd_overrun (mt (updAccepted_withPorts s ws a).1 hover)
  · rw [exec_upd_accepted ((updAccepted_withPorts s ws a).2 ha), updState_withPorts]
    rfl
  · exact exec_init _ ss ms

/-- Settles O10, command by command: the ports are two fields that no operation of an `UPD` reads. -/
theorem commandsIgnoreThePorts : Obligations.CommandsIgnoreThePorts := fun _ _ _ ws a h => exec_withPorts ws a h

theorem withStream_of_cmdIn {t : State} {ws : List Byte} (h : t.cmdIn = ws) : t.withStream ws = t := by
  rw [← h, withStream_self]

/-- The last response does not enter a command. -/
theorem exec_setRsp (i : Instr) (s : State) (a : Option (BitVec 16)) : exec i { s with rsp := a } = exec i s := by
  obtain ⟨t, ht⟩ := exec_completes s i
  rw [ht, ← withStream_of_cmdIn (exec_cmdIn ht)]
  exact exec_withPorts s.cmdIn a ht

/-! ### Runs -/

/-- Settles O5, by induction on the commands: a command runs alike with the words of the later ones on the port and
without them. -/
theorem commandStreamRunsAsEncoded : Obligations.CommandStreamRunsAsEncoded := by
  intro is rest s
  induction is generalizing s with
  | nil => rfl
  | cons i is ih =>
    obtain ⟨t, ht⟩ := exec_completes (s.withStream rest) i
    have hcmd : t.cmdIn = rest := exec_cmdIn ht
    have hstep : step (s.withStream ((i :: is).map encode ++ rest)) = .next (t.withStream (is.map encode ++ rest)) :=
      (step_withStream_encode i _ s).trans (exec_withPorts (s := s.withStream rest) (is.map encode ++ rest) s.rsp ht)
    rw [List.length_cons, steps_succ hstep, ih, withStream_of_cmdIn hcmd, execAll_cons is ht]

/-- A run of illegal words that begins with `w` leaves only its last response. -/
theorem steps_illegal (ws rest : List Byte) {w : Byte} (hw : legalWord w = false) (hws : ∀ v ∈ ws, legalWord v = false)
    (s : State) : steps (ws.length + 1) (s.withStream (w :: (ws ++ rest))) =
      .next { s with cmdIn := rest, rsp := some 0x9000 } := by
  induction ws generalizing w s with
  | nil => exact steps_succ (step_illegal (withStream_cmdIn s _) hw)
  | cons v ws ih =>
    rw [steps_succ (step_illegal (withStream_cmdIn s _) hw)]
    exact ih (hws v List.mem_cons_self) (fun u hu => hws u (List.mem_cons_of_mem v hu)) { s with rsp := some 0x9000 }

/-- Settles O9, by induction on the words after the first. -/
theorem illegalWordsLeaveNoTrace : Obligations.IllegalWordsLeaveNoTrace := by
  intro ws rest s hne hws
  cases ws with
  | nil => exact absurd rfl hne
  | cons w ws =>
    exact steps_illegal ws rest (hws w List.mem_cons_self) (fun v hv => hws v (List.mem_cons_of_mem w hv)) s

/-- A step on a command does not read the last response. -/
theorem step_encode_setRsp (i : Instr) (ws : List Byte) (s : State) (a : Option (BitVec 16)) :
    step (State.withStream { s with rsp := a } (encode i :: ws)) = step (s.withStream (encode i :: ws)) := by
  rw [step_withStream_encode, step_withStream_encode]
  exact exec_setRsp i (s.withStream ws) a

/-- Any `PROB` commands before a command leave its outcome as it is. -/
theorem steps_probs_then (n : Nat) (i : Instr) (ws : List Byte) (s : State) :
    steps (n + 1) (s.withStream (List.replicate n (encode .prob) ++ encode i :: ws)) =
      step (s.withStream (encode i :: ws)) := by
  induction n generalizing s with
  | zero =>
    obtain ⟨t, ht⟩ := step_completes (s.withStream (encode i :: ws))
    exact (steps_succ ht).trans ht.symm
  | succ n ih =>
    rw [List.replicate_succ, List.cons_append,
      steps_succ ((step_withStream_encode .prob _ s).trans (exec_prob_eq_setRsp _))]
    exact (ih { s with rsp := some (0#4 ++ s.pr) }).trans (step_encode_setRsp i ws s _)

/-- Settles O12: a `PROB` writes the response port alone, which the `UPD` does not read. -/
theorem probsBeforeUpdHaveNoEffect : Obligations.ProbsBeforeUpdHaveNoEffect := by
  intro n y rest s
  rw [← encode_upd]
  exact steps_probs_then n (.upd y) rest s

end Sys2Proof.Machine

/-! ## The two ways of an `UPD` through steps 2 and 3 (R110 to R116)

An `UPD` either folds its bit into the byte, and then no byte register, context or table moves, or completes the byte,
and then each of them takes it. The statements and the invariants below read off one of these two lists. -/

namespace Sys2Proof.Machine

/-! ### The two lists -/

/-- From `s` to `t` the bit `y` was folded into the partial byte and completed no byte (R110). -/
structure BitFolded (y : Bit) (s t : State) : Prop where
  c0 : t.c0.toNat = (2 * s.c0.toNat + y.toNat) % 512
  bpos : t.bpos = s.bpos + 1
  pos : t.pos = s.pos
  c4 : t.c4 = s.c4
  c8 : t.c8 = s.c8
  h : t.h = s.h
  binCount : t.binCount = s.binCount
  ctx : t.ctx = s.ctx
  mixIdx : t.mixIdx = s.mixIdx
  matchPos : t.matchPos = s.matchPos
  buffer : t.buffer = s.buffer
  hashes : t.hashes = s.hashes

/-- From `s` to `t` the byte `b` was completed: the registers, the buffer and the hash table have taken it (R111 to
R116; the match registers apart). -/
structure ByteTaken (r : Rom) (b : Byte) (s t : State) : Prop where
  c0 : t.c0 = 1
  bpos : t.bpos = 0
  pos : t.pos = s.pos + 1
  c4 : t.c4 = s.c4 <<< 8 ||| b.setWidth 32
  c8 : t.c8 = s.c8 <<< 8 ||| lsr s.c4 24
  h : t.h = r.hstep s.h t.c4
  binCount : t.binCount = s.binCount + (b >>> 7).setWidth 32
  ctx : ∀ k : Fin 7, t.ctx[k] = contextBase r t k
  mixIdx : t.mixIdx = mixerIndex s.ml t.c4
  buffer : t.buffer = Store.write zeroCell s.buffer (modN s.pos) b
  hashes : t.hashes = Store.write zeroCell s.hashes t.h.toNat t.pos

/-- The byte that the bit `y` completes, `B` of R111. -/
def foldedByte (y : Bit) (s : State) : Byte := completedByte (foldBit y s)

theorem foldedByte_toNat (y : Bit) (s : State) : (foldedByte y s).toNat = (2 * s.c0.toNat + y.toNat) % 256 := by
  rw [foldedByte, completedByte, BitVec.toNat_setWidth, foldBit_c0_toNat]
  omega

theorem BitFolded.respond {y : Bit} {s t : State} (hf : BitFolded y s t) (c : ResponseCode) (v : Prob) :
    BitFolded y s (t.respond c v) := { hf with }

theorem ByteTaken.respond {r : Rom} {b : Byte} {s t : State} (ht : ByteTaken r b s t) (c : ResponseCode) (v : Prob) :
    ByteTaken r b s (t.respond c v) := { ht with }

/-! ### Which of them -/

section
variable (r : Rom) (y : Bit) (s : State)

theorem takeBit_trained_inside (h : s.c0.toNat % 256 < 128) :
    takeBit r y (trainActiveMixer y s) = foldBit y (trainActiveMixer y s) :=
  takeBit_inside _ _ _ (by simpa using h)

theorem updState_bitFolded (h : s.c0.toNat % 256 < 128) : BitFolded y s (updState r y s) := by
  have ht := takeBit_trained_inside r y s h
  constructor
  case c0 =>
    simp [ht, foldBit_c0_toNat]
    omega
  all_goals simp [ht]

theorem completeByte_hashes : (completeByte r s).hashes =
    Store.write zeroCell s.hashes (completeByte r s).h.toNat (completeByte r s).pos := by
  simp [completeByte, recordPosition]

theorem updState_byteTaken (h : 128 ≤ s.c0.toNat % 256) : ByteTaken r (foldedByte y s) s (updState r y s) := by
  have ht : takeBit r y (trainActiveMixer y s) = completeByte r (foldBit y (trainActiveMixer y s)) :=
    takeBit_boundary _ _ _ (by simpa using h)
  have hbyte : completedByte (foldBit y (trainActiveMixer y s)) = foldedByte y s := by
    simp [foldedByte, completedByte, foldBit]
  constructor
  case ctx =>
    intro k
    have hbase : contextBase r (updState r y s) = contextBase r (completeByte r (foldBit y (trainActiveMixer y s))) :=
      contextBase_congr _ (by simp [ht]) (by simp [ht]) (by simp [ht]) (by simp [ht])
    have hctx : (updState r y s).ctx = (completeByte r (foldBit y (trainActiveMixer y s))).ctx := by simp [ht]
    rw [hbase, hctx]
    exact completeByte_ctx r _ k
  case hashes =>
    have hh : (updState r y s).hashes = (completeByte r (foldBit y (trainActiveMixer y s))).hashes := by simp [ht]
    rw [hh, completeByte_hashes]
    simp [ht]
  all_goals simp [ht, hbyte]

/-- An `UPD` takes one of the two ways, by the partial byte alone. -/
theorem updState_cases : BitFolded y s (updState r y s) ∧ s.c0.toNat % 256 < 128 ∨
    ByteTaken r (foldedByte y s) s (updState r y s) ∧ 128 ≤ s.c0.toNat % 256 := by
  rcases Nat.lt_or_ge (s.c0.toNat % 256) 128 with h | h
  · exact .inl ⟨updState_bitFolded r y s h, h⟩
  · exact .inr ⟨updState_byteTaken r y s h, h⟩
end

/-! ### What the two lists say of the memories -/

section
variable {y : Bit} {r : Rom} {b : Byte} {s t : State}

theorem BitFolded.bufferByte (hf : BitFolded y s t) (i : Nat) : t.bufferByte i = s.bufferByte i := by
  rw [State.bufferByte, hf.buffer, State.bufferByte]

theorem BitFolded.hashEntry (hf : BitFolded y s t) (i : Nat) : t.hashEntry i = s.hashEntry i := by
  rw [State.hashEntry, hf.hashes, State.hashEntry]

theorem ByteTaken.bufferByte (ht : ByteTaken r b s t) (i : Nat) :
    t.bufferByte i = if modN s.pos = i then b else s.bufferByte i := by
  rw [State.bufferByte, ht.buffer, Store.read_write, State.bufferByte]

theorem ByteTaken.hashEntry (ht : ByteTaken r b s t) (i : Nat) :
    t.hashEntry i = if t.h.toNat = i then t.pos else s.hashEntry i := by
  rw [State.hashEntry, ht.hashes, Store.read_write, State.hashEntry]

/-! ### The registers that take the byte, in numbers -/

theorem ByteTaken.c4_toNat (ht : ByteTaken r b s t) : t.c4.toNat = (s.c4.toNat * 256 + b.toNat) % 2 ^ 32 := by
  rw [ht.c4, shiftIn_toNat s.c4 8 b b.isLt (by norm_num), show 2 ^ 8 = 256 from rfl]

theorem ByteTaken.c8_toNat (ht : ByteTaken r b s t) :
    t.c8.toNat = (s.c8.toNat * 256 + s.c4.toNat / 2 ^ 24) % 2 ^ 32 := by
  have htop : (lsr s.c4 24).toNat = s.c4.toNat / 2 ^ 24 := by
    rw [lsr, BitVec.toNat_ushiftRight, Nat.shiftRight_eq_div_pow]
  have hfit : (lsr s.c4 24).toNat < 2 ^ 8 := by
    rw [htop]
    omega
  have hshift := shiftIn_toNat s.c8 8 (lsr s.c4 24) hfit le_rfl
  rw [ht.c8, ← BitVec.setWidth_eq (lsr s.c4 24), hshift, htop, show 2 ^ 8 = 256 from rfl]

theorem topBit_eq (b : Byte) : (b >>> 7).setWidth 32 = if 128 ≤ b.toNat then 1#32 else 0#32 := by
  revert b
  decide

/-- `binCount` takes the byte's top bit (R147). -/
theorem ByteTaken.binCount_eq (ht : ByteTaken r b s t) :
    t.binCount = if 128 ≤ b.toNat then s.binCount + 1 else s.binCount := by
  rw [ht.binCount, topBit_eq]
  split
  · rfl
  · exact BitVec.add_zero _

theorem ByteTaken.mixIdx_toNat (ht : ByteTaken r b s t) : t.mixIdx.toNat = t.c4.toNat % 2 ^ s.ml.log2 := by
  rw [ht.mixIdx, mixerIndex_toNat]
end

/-! ### The statements -/

/-- Settles O21: below 128 the bit completes no byte and the folded partial byte fits. -/
theorem updFoldsTheBitInsideAByte : Obligations.UpdFoldsTheBitInsideAByte := by
  intro y s ha hc0
  have hf := (updState_bitFolded Config.rom y s (by omega)).respond .ok 0
  have hfit : (2 * s.c0.toNat + y.toNat) % 512 = 2 * s.c0.toNat + y.toNat := by
    have := Bit.toNat_le y
    omega
  exact ⟨_, exec_upd_accepted ha, hf.c0.trans hfit, hf.bpos, hf.pos, hf.c4, hf.c8, hf.h, hf.binCount, hf.ctx, hf.mixIdx,
    hf.matchPos, hf.buffer, hf.hashes⟩

/-- Settles O22, from the registers that take the byte. -/
theorem updCompletesAByte : Obligations.UpdCompletesAByte := by
  intro y s ha hlow hhigh
  have ht := (updState_byteTaken Config.rom y s (by omega)).respond .ok 0
  have hb := foldedByte_toNat y s
  refine ⟨_, exec_upd_accepted ha, ht.c0, ht.bpos, ht.pos, ?c4, ?c8, ht.h, ?binCount, ht.mixIdx_toNat, ?buffer⟩
  case c4 =>
    rw [← hb]
    exact BitVec.eq_of_toNat_eq (ht.c4_toNat.trans (BitVec.toNat_ofNat ..).symm)
  case c8 => exact BitVec.eq_of_toNat_eq (ht.c8_toNat.trans (BitVec.toNat_ofNat ..).symm)
  case binCount =>
    rw [← hb]
    exact ht.binCount_eq
  case buffer =>
    rw [ht.bufferByte, if_pos (modN_eq s.pos), ← hb, BitVec.ofNat_toNat, BitVec.setWidth_eq]

end Sys2Proof.Machine

/-! ## The counters (R46, R27, R28, R33)

`bpos` is the binary logarithm of the partial byte, so the bit that completes a byte finds `bpos = 7`, and an accepted
one then has room in `pos`. Every later invariant rests on these two facts. -/

namespace Sys2Proof.Machine

/-! ### What sound counters say at a byte boundary -/

section
variable {s : State}

theorem CounterInv.c0_mod (hc : CounterInv s) : s.c0.toNat % 256 = s.c0.toNat :=
  Nat.mod_eq_of_lt (Nat.lt_succ_of_le hc.c0_le)

/-- Inside a byte at most six bits were received. -/
theorem CounterInv.bpos_le (hc : CounterInv s) (h : s.c0.toNat < 128) : s.bpos.toNat ≤ 6 := by
  have hpos := hc.c0_pos
  rw [hc.bpos_eq]
  exact Nat.le_of_lt_succ ((Nat.log2_lt (by omega)).2 h)

/-- The partial byte that the next bit completes holds seven bits. -/
theorem CounterInv.bpos_eq_seven (hc : CounterInv s) (h : 128 ≤ s.c0.toNat) : s.bpos.toNat = 7 := by
  have hle := hc.c0_le
  rw [hc.bpos_eq, Nat.log2_eq_iff (by omega)]
  omega

/-- The bit is refused only when it would complete a byte and `pos` is at its last value (R124). -/
theorem CounterInv.updAccepted_iff (hc : CounterInv s) : UpdAccepted s ↔ s.bitCount < 2 ^ 34 - 1 := by
  have hb : s.bpos = 7 ↔ s.bpos.toNat = 7 := BitVec.toNat_inj.symm
  have hp : s.pos = 0x7FFFFFFF ↔ s.pos.toNat = 0x7FFFFFFF := BitVec.toNat_inj.symm
  have hpos := hc.pos_lt
  have hbpos : s.bpos.toNat ≤ 7 := by
    rcases Nat.lt_or_ge s.c0.toNat 128 with h | h
    · exact (hc.bpos_le h).trans (by norm_num)
    · exact (hc.bpos_eq_seven h).le
  rw [UpdAccepted, hb, hp, State.bitCount]
  omega

/-- An accepted bit that completes a byte has room for it in `pos`. -/
theorem CounterInv.pos_succ (hc : CounterInv s) (ha : UpdAccepted s) (h : 128 ≤ s.c0.toNat) :
    (s.pos + 1).toNat = s.pos.toNat + 1 ∧ s.pos.toNat + 1 < 2 ^ 31 := by
  have hroom := hc.updAccepted_iff.1 ha
  have hone : (1 : Word).toNat = 1 := rfl
  rw [State.bitCount, hc.bpos_eq_seven h] at hroom
  rw [BitVec.toNat_add, hone]
  omega

/-- An `UPD` from sound counters, with its two ways told apart by the partial byte. -/
theorem CounterInv.updState_cases (hc : CounterInv s) (r : Rom) (y : Bit) :
    BitFolded y s (updState r y s) ∧ s.c0.toNat < 128 ∨
    ByteTaken r (foldedByte y s) s (updState r y s) ∧ 128 ≤ s.c0.toNat := by
  have h := Machine.updState_cases r y s
  rwa [hc.c0_mod] at h

/-! ### Every `UPD` keeps them -/

variable {r : Rom} {b : Byte} {y : Bit} {t : State}

theorem BitFolded.c0_toNat (hf : BitFolded y s t) (h : s.c0.toNat < 128) : t.c0.toNat = 2 * s.c0.toNat + y.toNat := by
  have hy := Bit.toNat_le y
  rw [hf.c0]
  omega

theorem BitFolded.bpos_toNat (hf : BitFolded y s t) (h : s.bpos.toNat ≤ 6) : t.bpos.toNat = s.bpos.toNat + 1 := by
  have hone : (1 : BitVec 4).toNat = 1 := rfl
  rw [hf.bpos, BitVec.toNat_add, hone]
  omega

/-- One more bit doubles the partial byte and adds one to its logarithm. -/
theorem log2_two_mul_add {c v : Nat} (hc : 1 ≤ c) (hv : v ≤ 1) : Nat.log2 (2 * c + v) = Nat.log2 c + 1 := by
  rw [Nat.log2_def, if_pos (by omega), show (2 * c + v) / 2 = c by omega]

theorem BitFolded.counterInv (hf : BitFolded y s t) (hc : CounterInv s) (h : s.c0.toNat < 128) : CounterInv t := by
  have hy := Bit.toNat_le y
  have hpos := hc.c0_pos
  have hc0 := hf.c0_toNat h
  refine ⟨by omega, by omega, ?_, by rw [hf.pos]; exact hc.pos_lt, by rw [hf.binCount, hf.pos]; exact hc.binCount_le⟩
  rw [hf.bpos_toNat (hc.bpos_le h), hc0, log2_two_mul_add hpos hy, hc.bpos_eq]

theorem ByteTaken.counterInv (ht : ByteTaken r b s t) (hc : CounterInv s) (ha : UpdAccepted s) (h : 128 ≤ s.c0.toNat) :
    CounterInv t := by
  obtain ⟨hpos, hroom⟩ := hc.pos_succ ha h
  have hcount := hc.binCount_le
  have hc0 : t.c0.toNat = 1 := by rw [ht.c0]; rfl
  have hbin : t.binCount.toNat ≤ s.binCount.toNat + 1 := by
    rw [ht.binCount_eq]
    split
    · exact (BitVec.toNat_add ..).trans_le (Nat.mod_le _ _)
    · exact Nat.le_succ _
  refine ⟨by omega, by omega, ?_, by rw [ht.pos]; omega, by rw [ht.pos]; omega⟩
  rw [hc0, ht.bpos]
  rfl

theorem updState_counterInv (r : Rom) (y : Bit) (ha : UpdAccepted s) (hc : CounterInv s) :
    CounterInv (updState r y s) := by
  rcases hc.updState_cases r y with ⟨hf, h⟩ | ⟨ht, h⟩
  · exact hf.counterInv hc h
  · exact ht.counterInv hc ha h
end

/-! ### Every step keeps them -/

theorem counterInv_withPorts (s : State) (ws : List Byte) (a : Option (BitVec 16)) (hc : CounterInv s) :
    CounterInv (s.withPorts ws a) := { hc with }

theorem CounterInv.respond {s : State} (hc : CounterInv s) (c : ResponseCode) (v : Prob) : CounterInv (s.respond c v) :=
  { hc with }

theorem counterInv_initial (sl : StoreSize) (ml : PoolSize) : CounterInv (State.initial sl ml) where
  c0_pos := (by decide : 1 ≤ (1#9).toNat)
  c0_le := (by decide : (1#9).toNat ≤ 255)
  bpos_eq := (by decide : (0#4).toNat = Nat.log2 (1#9).toNat)
  pos_lt := (by decide : (0#32).toNat < 2 ^ 31)
  binCount_le := le_rfl

/-- Settles O48: a folded bit doubles the partial byte, and a completed byte has room in `pos`. -/
theorem stepKeepsTheCounters : Obligations.StepKeepsTheCounters := fun _ _ =>
  step_preserves counterInv_withPorts counterInv_initial fun y _ => updState_counterInv Config.rom y

/-- What every step keeps beside sound counters. -/
theorem step_preserves_beside_counters {P : State → Prop} (hport : ∀ s ws a, P s → P (s.withPorts ws a))
    (hinit : ∀ sl ml, P (State.initial sl ml))
    (hupd : ∀ y s, UpdAccepted s → CounterInv s → P s → P (updState Config.rom y s)) {s t : State} (hc : CounterInv s)
    (hs : P s) (h : step s = .next t) : P t := by
  refine (step_preserves (P := fun s => CounterInv s ∧ P s) ?_ ?_ ?_ ⟨hc, hs⟩ h).2
  · exact fun s ws a hboth => ⟨counterInv_withPorts s ws a hboth.1, hport s ws a hboth.2⟩
  · exact fun sl ml => ⟨counterInv_initial sl ml, hinit sl ml⟩
  · exact fun y s ha hboth => ⟨updState_counterInv Config.rom y ha hboth.1, hupd y s ha hboth.1 hboth.2⟩

/-! ### The bit count (R33) -/

/-- An accepted bit adds one to `pos · 8 + bpos`. -/
theorem updState_bitCount (r : Rom) (y : Bit) {s : State} (ha : UpdAccepted s) (hc : CounterInv s) :
    (updState r y s).bitCount = s.bitCount + 1 := by
  rcases hc.updState_cases r y with ⟨hf, h⟩ | ⟨ht, h⟩
  · rw [State.bitCount, hf.pos, hf.bpos_toNat (hc.bpos_le h), State.bitCount, Nat.add_assoc]
  · rw [State.bitCount, State.bitCount, ht.pos, ht.bpos, (hc.pos_succ ha h).1, hc.bpos_eq_seven h]
    change (s.pos.toNat + 1) * 8 + 0 = _
    omega

/-- The step on the word of an accepted bit. -/
theorem step_counted (y : Bit) (ws : List Byte) {s : State} (ha : UpdAccepted s) (hc : CounterInv s) :
    ∃ t, step (s.withStream (encode (.upd y) :: ws)) = .next (t.withStream ws) ∧ CounterInv t ∧
      t.bitCount = s.bitCount + 1 := by
  refine ⟨(updState Config.rom y s).respond .ok 0, ?_, (updState_counterInv Config.rom y ha hc).respond _ _, ?_⟩
  · rw [step_withStream_encode]
    exact exec_withPorts ws s.rsp (exec_upd_accepted ha)
  · rw [State.bitCount_respond, updState_bitCount Config.rom y ha hc]

/-- Settles O55, by induction on the bits: a count below `2 ^ 34` leaves room for the next one. -/
theorem acceptedBitsAreCounted : Obligations.AcceptedBitsAreCounted := by
  intro ys rest s hc hfit
  simp only [← encode_upd]
  induction ys generalizing s with
  | nil => exact ⟨_, rfl, rfl, rfl⟩
  | cons y ys ih =>
    rw [List.length_cons] at hfit
    have ha : UpdAccepted s := hc.updAccepted_iff.2 (by omega)
    obtain ⟨u, hstep, hu, hcount⟩ := step_counted y (ys.map (fun y => encode (.upd y)) ++ rest) ha hc
    obtain ⟨t, hrun, hcmd, htotal⟩ := ih u hu (by omega)
    refine ⟨t, ?_, hcmd, ?_⟩
    · rw [List.length_cons, List.map_cons, List.cons_append, steps_succ hstep, hrun]
    · rw [htotal, hcount, List.length_cons]
      omega

end Sys2Proof.Machine

/-! ## The byte history and the contexts (R24, R25, R30, R68)

Completing a byte shifts `c8 ‖ c4` by one byte as one 64-bit register, and the ring buffer, seen from `pos` backwards,
moves by one element: byte `i + 1` of the new history is byte `i` of the old one. -/

namespace Sys2Proof.Machine

/-! ### The two registers as one -/

section
variable {r : Rom} {b : Byte} {s t : State}

theorem c8_append_c4_toNat (c8 c4 : Word) : (c8 ++ c4).toNat = c8.toNat * 2 ^ 32 + c4.toNat := by
  rw [BitVec.toNat_append, ← Nat.shiftLeft_add_eq_or_of_lt c4.isLt, Nat.shiftLeft_eq]

theorem ByteTaken.history_toNat (ht : ByteTaken r b s t) :
    (t.c8 ++ t.c4).toNat = ((s.c8 ++ s.c4).toNat * 2 ^ 8 + b.toNat) % 2 ^ 64 := by
  have hb := b.isLt
  have h4 := s.c4.isLt
  rw [c8_append_c4_toNat, c8_append_c4_toNat, ht.c8_toNat, ht.c4_toNat]
  omega

theorem ByteTaken.history_zero (ht : ByteTaken r b s t) : (t.c8 ++ t.c4).extractLsb' (8 * 0) 8 = b := by
  have hb := b.isLt
  apply BitVec.eq_of_toNat_eq
  rw [BitVec.extractLsb'_toNat, Nat.shiftRight_eq_div_pow, ht.history_toNat]
  omega

/-- A shift by one byte moves byte `i` of a 64-bit number to byte `i + 1`. -/
theorem shiftedByte (x v i : Nat) (hv : v < 2 ^ 8) (hi : i < 7) :
    (x * 2 ^ 8 + v) % 2 ^ 64 / 2 ^ (8 * (i + 1)) % 2 ^ 8 = x / 2 ^ (8 * i) % 2 ^ 8 := by
  have hsplit : 2 ^ 56 = 2 ^ (8 * i) * 2 ^ (56 - 8 * i) := by
    rw [← pow_add]
    congr 1
    omega
  have hdrop : (x * 2 ^ 8 + v) % 2 ^ 64 / 2 ^ 8 = x % 2 ^ 56 := by omega
  calc _ = x % (2 ^ (8 * i) * 2 ^ (56 - 8 * i)) / 2 ^ (8 * i) % 2 ^ 8 := by
        rw [← hsplit, ← hdrop, Nat.div_div_eq_div_mul, ← pow_add, show 8 + 8 * i = 8 * (i + 1) by omega]
    _ = x / 2 ^ (8 * i) % 2 ^ 8 := by
        rw [Nat.mod_mul_right_div_self, Nat.mod_mod_of_dvd _ (Nat.pow_dvd_pow 2 (by omega))]

theorem ByteTaken.history_succ (ht : ByteTaken r b s t) {i : Nat} (hi : i < 7) :
    (t.c8 ++ t.c4).extractLsb' (8 * (i + 1)) 8 = (s.c8 ++ s.c4).extractLsb' (8 * i) 8 := by
  apply BitVec.eq_of_toNat_eq
  rw [BitVec.extractLsb'_toNat, BitVec.extractLsb'_toNat, Nat.shiftRight_eq_div_pow, Nat.shiftRight_eq_div_pow,
    ht.history_toNat]
  exact shiftedByte _ _ i b.isLt hi

/-! ### Every step keeps the history -/

theorem BitFolded.historyInv {y : Bit} (hf : BitFolded y s t) (hh : HistoryInv s) : HistoryInv t := by
  intro i hi
  rw [hf.c8, hf.c4, hf.pos, hf.bufferByte]
  exact hh i hi

/-- Byte 0 is the byte just stored; an older byte is not overwritten, for it lies less than `N` back. -/
theorem ByteTaken.historyInv (ht : ByteTaken r b s t) (hpos : t.pos.toNat = s.pos.toNat + 1) (hh : HistoryInv s) :
    HistoryInv t := by
  intro i hi
  rw [hpos, ht.bufferByte, modN_eq]
  cases i with
  | zero => rw [ht.history_zero, if_pos (Nat.succ_pos _), if_pos (by rfl)]
  | succ i =>
    rw [ht.history_succ (by omega), hh i (by omega)]
    have hback : s.pos.toNat + 1 - 1 - (i + 1) = s.pos.toNat - 1 - i := by omega
    by_cases hin : i < s.pos.toNat
    · have hkept : ¬s.pos.toNat % 2 ^ 26 = (s.pos.toNat - 1 - i) % bufferSize := by
        change ¬_ = _ % 2 ^ 26
        omega
      rw [if_pos hin, if_pos (by omega), hback, if_neg hkept]
    · rw [if_neg hin, if_neg (by omega)]

theorem updState_historyInv (r : Rom) (y : Bit) (ha : UpdAccepted s) (hc : CounterInv s) (hh : HistoryInv s) :
    HistoryInv (updState r y s) := by
  rcases hc.updState_cases r y with ⟨hf, -⟩ | ⟨ht, h⟩
  · exact hf.historyInv hh
  · exact ht.historyInv ((congrArg BitVec.toNat ht.pos).trans (hc.pos_succ ha h).1) hh
end

theorem historyInv_initial (sl : StoreSize) (ml : PoolSize) : HistoryInv (State.initial sl ml) := by
  intro i _
  change (0#32 ++ 0#32).extractLsb' (8 * i) 8 = if i < 0 then _ else 0
  rw [if_neg (Nat.not_lt_zero i)]
  apply BitVec.eq_of_toNat_eq
  simp

/-- Settles O51: an accepted byte has room in `pos`, so the position does not wrap under the history. -/
theorem stepKeepsTheByteHistory : Obligations.StepKeepsTheByteHistory := fun _ _ =>
  step_preserves_beside_counters (fun _ _ _ hh => hh) historyInv_initial
    fun y _ => updState_historyInv Config.rom y

/-! ### Every step keeps the contexts -/

/-- Inside a byte neither a base nor what it is computed from moves; a completed byte sets every base (R115, R152). -/
theorem updState_contextInv (r : Rom) (y : Bit) {s : State} (hx : ContextInv r s) : ContextInv r (updState r y s) := by
  rcases updState_cases r y s with ⟨hf, -⟩ | ⟨ht, -⟩
  · have hbase := contextBase_congr r hf.c4 hf.c8 hf.binCount hf.pos
    rwa [ContextInv, hbase, hf.ctx, hf.pos]
  · exact .inr ht.ctx

theorem contextInv_initial (r : Rom) (sl : StoreSize) (ml : PoolSize) : ContextInv r (State.initial sl ml) :=
  .inl ⟨rfl, initial_ctx sl ml⟩

theorem contextInv_withPorts (r : Rom) (s : State) (ws : List Byte) (a : Option (BitVec 16)) (hx : ContextInv r s) :
    ContextInv r (s.withPorts ws a) := by
  have hbase : contextBase r (s.withPorts ws a) = contextBase r s := contextBase_congr r rfl rfl rfl rfl
  rw [ContextInv, hbase]
  exact hx

theorem step_contextInv {s t : State} : ContextInv Config.rom s → step s = .next t → ContextInv Config.rom t :=
  step_preserves (contextInv_withPorts Config.rom) (contextInv_initial Config.rom)
    fun y _ _ => updState_contextInv Config.rom y

end Sys2Proof.Machine

/-! ## The slots and the order of step 4 (R131, R133, R135)

An `UPD` writes a slot only by applying the table to it, so whatever the table keeps, every slot keeps. A pointer is
read by its own lane alone, so moving it may wait until all slots are advanced. -/

namespace Sys2Proof.Machine

section
variable {r : Rom} {y : Bit} {s : State}

/-- What `T[y]` keeps, an `UPD` keeps of every slot. -/
theorem updState_slot_keeps {P : Byte → Prop} (hT : ∀ v, P v → P (r.transition y v)) (hs : ∀ i, P (s.slot i))
    (i : Nat) : P ((updState r y s).slot i) := by
  rw [updState_slot_of_entry]
  exact Function.Iterate.rec P (hs i) hT _

/-- Settles O36: a refused `UPD` writes no slot, an accepted one applies the closed table. -/
theorem updKeepsSlotStatesInRange : Obligations.UpdKeepsSlotStatesInRange := by
  intro r y s hT hs i
  by_cases ha : UpdAccepted s
  · rw [updWith_accepted r y ha, State.slot_respond]
    exact updState_slot_keeps (hT y) hs i
  · rw [updWith_overrun r y ha, State.raise, State.slot_respond]
    exact hs i

theorem updState_slotInv (hs : SlotInv r s) : SlotInv r (updState r y s) :=
  updState_slot_keeps (fun v hv => .observe y v hv) hs

theorem slotInv_initial (r : Rom) (sl : StoreSize) (ml : PoolSize) : SlotInv r (State.initial sl ml) := fun i => by
  rw [initial_slot]
  exact .virgin

/-- Settles O53: a reachable state stays reachable when the table is applied to it. -/
theorem stepKeepsSlotsReachable : Obligations.StepKeepsSlotsReachable := fun _ _ =>
  step_preserves (fun _ _ _ hs => hs) (slotInv_initial Config.rom) fun _ _ _ => updState_slotInv

/-! ### Splitting the loop (R135) -/

/-- A lane's `NEXT` does not see another lane's `MOVE`. -/
theorem nextHistory_movePointer {j k : Fin 7} (h : k ≠ j) :
    nextHistory r y j (movePointer k s) = movePointer k (nextHistory r y j s) := by
  have hcp : (movePointer k s).cp[j] = s.cp[j] := (movePointer_cp s k j).trans (if_neg h)
  rw [nextHistory, hcp]
  rfl

theorem foldl_nextHistory_movePointer {k : Fin 7} {ks : List (Fin 7)} (hk : k ∉ ks) :
    ks.foldl (fun t j => nextHistory r y j t) (movePointer k s) =
      movePointer k (ks.foldl (fun t j => nextHistory r y j t) s) := by
  induction ks generalizing s with
  | nil => rfl
  | cons j ks ih =>
    obtain ⟨hkj, hks⟩ := List.ne_and_not_mem_of_not_mem_cons hk
    rw [List.foldl_cons, nextHistory_movePointer hkj, ih hks, List.foldl_cons]

theorem foldl_advanceLane_eq_split {ks : List (Fin 7)} (hks : ks.Nodup) : ks.foldl (advanceLane r y) s =
    ks.foldl (fun t k => movePointer k t) (ks.foldl (fun t k => nextHistory r y k t) s) := by
  induction ks generalizing s with
  | nil => rfl
  | cons k ks ih =>
    obtain ⟨hk, hks⟩ := List.nodup_cons.1 hks
    rw [List.foldl_cons, ih hks, advanceLane, foldl_nextHistory_movePointer hk, List.foldl_cons, List.foldl_cons]

/-- Settles O35, by induction on the lanes: each `MOVE` passes the `NEXT` of every later lane. -/
theorem nextAndMoveMayBeSplit : Obligations.NextAndMoveMayBeSplit := fun r y s =>
  (advanceHistories_eq_foldl r y s).trans (foldl_advanceLane_eq_split (List.nodup_finRange 7))
end

end Sys2Proof.Machine

/-! ## Indices and memories (R60, R66, R107)

Every index an `UPD` writes at is one of its index registers, and each of these is masked or computed below the size of
its memory. So the canonical form of a memory follows from `Store.wf_write`, one write after another. -/

namespace Sys2Proof.Machine

/-! ### The index registers -/

section
variable {r : Rom} {y : Bit} {s : State}

/-- The APM index an `UPD` leaves is a column below the last, in the row of the new context. -/
theorem updState_apmIdx (r : Rom) (y : Bit) (s : State) : ∃ k ≤ 31, (updState r y s).apmIdx.toNat =
    (apmContext (updState r y s).c0 (updState r y s).c4).toNat * 33 + k := by
  have hindex := (updState_refined r y s).1
  have hsx := stretched_toInt r ((updState r y s).mixer (updState r y s).mixIdx.toNat).pr
  generalize stretched r _ = sx at hindex hsx
  have hcol := apmColumnOf_toNat (sx := sx) (by omega) (by omega)
  have hle : (apmColumnOf sx).toNat ≤ 31 := by omega
  refine ⟨_, hle, ?_⟩
  rw [hindex, apmIndex_toNat (apmContext_toNat_lt _ _) hle]

theorem updState_mixIdx (hm : s.mixIdx = mixerIndex s.ml s.c4) :
    (updState r y s).mixIdx = mixerIndex (updState r y s).ml (updState r y s).c4 := by
  have hml : (updState r y s).ml = s.ml := by simp
  rw [hml]
  rcases updState_cases r y s with ⟨hf, -⟩ | ⟨ht, -⟩
  · rw [hf.mixIdx, hf.c4, hm]
  · exact ht.mixIdx

theorem updState_indexInv (hi : IndexInv s) : IndexInv (updState r y s) := by
  obtain ⟨k, hk, hidx⟩ := updState_apmIdx r y s
  have hctx := apmContext_toNat_lt (updState r y s).c0 (updState r y s).c4
  exact ⟨fun j => .inl (updState_cp r y s j), updState_mixIdx hi.mixer, by omega, by omega, .inr (by omega)⟩

theorem indexInv_initial (sl : StoreSize) (ml : PoolSize) : IndexInv (State.initial sl ml) where
  pointer k := .inr (initial_cp sl ml k)
  mixer := by
    apply BitVec.eq_of_toNat_eq
    rw [mixerIndex_toNat]
    exact (Nat.zero_mod _).symm
  apm_le := Nat.zero_le _
  apm_col := Nat.zero_le _
  apm_row := .inl (Nat.zero_div 33)

theorem indexInv_withPorts (s : State) (ws : List Byte) (a : Option (BitVec 16)) (hi : IndexInv s) :
    IndexInv (s.withPorts ws a) := { hi with }

/-! ### The slots -/

theorem IndexInv.pointer_lt (hi : IndexInv s) (k : Fin 7) : s.cp[k].toNat < 2 ^ s.sl.log2 := by
  rcases hi.pointer k with h | h
  · rw [h]
    exact slotIndex_lt _ _ _
  · rw [h]
    exact Nat.two_pow_pos _

/-- Every pointer names an existing slot, and the slots are canonical. -/
def SlotsSound (s : State) : Prop :=
  (∀ k : Fin 7, s.cp[k].toNat < 2 ^ s.sl.log2) ∧ Store.wf zeroCell (2 ^ s.sl.log2) s.states

theorem advanceLane_states (k : Fin 7) : (advanceLane r y s k).states =
    Store.write zeroCell s.states s.cp[k].toNat (r.transition y (s.slot s.cp[k].toNat)) := rfl

theorem advanceLane_slotsSound (k : Fin 7) (hs : SlotsSound s) : SlotsSound (advanceLane r y s k) := by
  obtain ⟨hcp, hwf⟩ := hs
  refine ⟨fun j => ?_, ?_⟩
  · rw [(advanceLane_frame r y s k).1, advanceLane_cp]
    split
    · exact slotIndex_lt _ _ _
    · exact hcp j
  · rw [(advanceLane_frame r y s k).1, advanceLane_states]
    exact Store.wf_write _ hwf (hcp k)

theorem foldl_advanceLane_slotsSound (ks : List (Fin 7)) (hs : SlotsSound s) :
    SlotsSound (ks.foldl (advanceLane r y) s) := by
  induction ks generalizing s with
  | nil => exact hs
  | cons k ks ih => exact ih (advanceLane_slotsSound k hs)

theorem updState_states_wf (hs : SlotsSound s) : Store.wf zeroCell (2 ^ s.sl.log2) (updState r y s).states := by
  have hentry : SlotsSound (takeBit r y (trainActiveMixer y s)) := by simpa [SlotsSound] using hs
  have hwf := (foldl_advanceLane_slotsSound (r := r) (y := y) (List.finRange 7) hentry).2
  rw [← advanceHistories_eq_foldl] at hwf
  rw [(updState_advanced r y s).2]
  simpa using hwf

/-! ### The mixer pool and the grid -/

theorem trainActiveMixer_mixers (y : Bit) (s : State) : ∃ m, (trainActiveMixer y s).mixers =
    Store.write mixerReset s.mixers s.mixIdx.toNat m := by
  rw [trainActiveMixer, State.setMixer_mixers]
  exact ⟨_, rfl⟩

/-- Steps 5 to 8 write the active record alone of the pool (R119). -/
theorem predict_mixers (r : Rom) (y : Bit) (s : State) : ∃ n, (predict r y s).mixers =
    Store.write mixerReset s.mixers s.mixIdx.toNat n := by
  simp only [predict, refine_frame, mixForward, State.setMixer_mixers, killMatch_frame]
  exact ⟨_, rfl⟩

/-- An `UPD` writes the record active on entry and the one active after step 3. -/
theorem updState_mixers (r : Rom) (y : Bit) (s : State) : ∃ m n, (updState r y s).mixers =
    Store.write mixerReset (Store.write mixerReset s.mixers s.mixIdx.toNat m) (updState r y s).mixIdx.toNat n := by
  obtain ⟨m, hm⟩ := trainActiveMixer_mixers y s
  obtain ⟨n, hn⟩ := predict_mixers r y (advanceHistories r y (takeBit r y (trainActiveMixer y s)))
  exact ⟨m, n, hn.trans (by simp [hm])⟩

theorem trainApm_apm (r : Rom) (y : Bit) (s : State) : ∃ c d, (trainApm r y s).apm =
    Store.write (apmReset r) (Store.write (apmReset r) s.apm s.apmIdx.toNat c) (s.apmIdx.toNat + 1) d := by
  rw [trainApm, trainApmCell, State.setApmCell_apm, trainApmCell, State.setApmCell_apm]
  exact ⟨_, _, rfl⟩

/-- Of steps 5 to 8 only the training of step 7 writes the grid (R219). -/
theorem predict_apm (r : Rom) (y : Bit) (s : State) : ∃ c d, (predict r y s).apm =
    Store.write (apmReset r) (Store.write (apmReset r) s.apm s.apmIdx.toNat c) (s.apmIdx.toNat + 1) d := by
  obtain ⟨c, d, htrain⟩ := trainApm_apm r y (mixForward r (gatherInputs r s) (killMatch s))
  refine ⟨c, d, (refine_writes r y _ _).2.1.trans (htrain.trans ?_)⟩
  simp

/-- An `UPD` writes the two cells of the previous lookup. -/
theorem updState_apm (r : Rom) (y : Bit) (s : State) : ∃ c d, (updState r y s).apm =
    Store.write (apmReset r) (Store.write (apmReset r) s.apm s.apmIdx.toNat c) (s.apmIdx.toNat + 1) d := by
  obtain ⟨c, d, hgrid⟩ := predict_apm r y (advanceHistories r y (takeBit r y (trainActiveMixer y s)))
  exact ⟨c, d, hgrid.trans (by simp)⟩

/-! ### Every step keeps both -/

theorem updState_memoryInv (hi : IndexInv s) (hm : MemoryInv r s) : MemoryInv r (updState r y s) := by
  have hsl : (updState r y s).sl = s.sl := by simp
  have hml : (updState r y s).ml = s.ml := by simp
  have hmix : ∀ c4, (mixerIndex s.ml c4).toNat < 2 ^ s.ml.log2 := mixerIndex_lt s.ml
  constructor
  case states =>
    rw [hsl]
    exact updState_states_wf ⟨hi.pointer_lt, hm.states⟩
  case buffer =>
    rcases updState_cases r y s with ⟨hf, -⟩ | ⟨ht, -⟩
    · rw [hf.buffer]
      exact hm.buffer
    · rw [ht.buffer]
      exact Store.wf_write _ hm.buffer (modN_lt s.pos)
  case hashes =>
    rcases updState_cases r y s with ⟨hf, -⟩ | ⟨ht, -⟩
    · rw [hf.hashes]
      exact hm.hashes
    · rw [ht.hashes]
      exact Store.wf_write _ hm.hashes (updState r y s).h.isLt
  case mixers =>
    obtain ⟨m, n, hpool⟩ := updState_mixers r y s
    rw [hpool, updState_mixIdx hi.mixer, hi.mixer, hml]
    exact Store.wf_write _ (Store.wf_write _ hm.mixers (hmix _)) (hmix _)
  case apm =>
    obtain ⟨c, d, hgrid⟩ := updState_apm r y s
    have hle := hi.apm_le
    have hlast : s.apmIdx.toNat + 1 < apmCells := by
      change _ < 65536 * 33
      omega
    rw [hgrid]
    exact Store.wf_write _ (Store.wf_write _ hm.apm (Nat.lt_of_succ_lt hlast)) hlast

theorem memoryInv_initial (r : Rom) (sl : StoreSize) (ml : PoolSize) : MemoryInv r (State.initial sl ml) :=
  ⟨Store.wf_nil _, Store.wf_nil _, Store.wf_nil _, Store.wf_nil _, Store.wf_nil _⟩

theorem memoryInv_withPorts (r : Rom) (s : State) (ws : List Byte) (a : Option (BitVec 16)) (hm : MemoryInv r s) :
    MemoryInv r (s.withPorts ws a) := { hm with }
end

/-- Settles O49: a step keeps the indices in range, and a write in range keeps a memory canonical. -/
theorem stepKeepsMemoriesCanonical : Obligations.StepKeepsMemoriesCanonical := by
  intro s t hi hm h
  refine step_preserves (P := fun s => IndexInv s ∧ MemoryInv Config.rom s) ?_ ?_ ?_ ⟨hi, hm⟩ h
  · exact fun s ws a hboth => ⟨indexInv_withPorts s ws a hboth.1, memoryInv_withPorts Config.rom s ws a hboth.2⟩
  · exact fun sl ml => ⟨indexInv_initial sl ml, memoryInv_initial Config.rom sl ml⟩
  · exact fun y s _ hboth => ⟨updState_indexInv hboth.1, updState_memoryInv hboth.1 hboth.2⟩

end Sys2Proof.Machine

/-! ## The match state (R29, R178 to R187)

The agreement test compares numbers: the expected byte under its sentinel, less the bits still to come, with the partial
byte. A match inside a byte lives by that test; at a byte boundary the finder extends it or looks one up. -/

namespace Sys2Proof.Machine

/-! ### The agreement test and the match input, in numbers -/

theorem sentinel_toNat (e : Byte) : (e.setWidth 9 ||| 256#9).toNat = e.toNat + 256 := by
  revert e
  decide

theorem expectedByte_eq (s : State) : expectedByte s = s.bufferByte (s.matchPos.toNat % 2 ^ 26) := rfl

/-- The partial byte is the leading bits of the expected byte with a sentinel above it (R185, R186). -/
theorem matchAgrees_iff (s : State) : matchAgrees s = true ↔
    ((s.bufferByte (s.matchPos.toNat % 2 ^ 26)).toNat + 256) / 2 ^ (8 - s.bpos.toNat) = s.c0.toNat := by
  rw [matchAgrees, beq_iff_eq, ← BitVec.toNat_inj, BitVec.toNat_ushiftRight, sentinel_toNat, Nat.shiftRight_eq_div_pow,
    expectedByte_eq]

theorem bitExpected_eq_zero_iff (s : State) : bitExpected s = 0 ↔
    (s.bufferByte (s.matchPos.toNat % 2 ^ 26)).toNat / 2 ^ (7 - s.bpos.toNat) % 2 = 0 := by
  rw [bitExpected, ← BitVec.toNat_inj, BitVec.toNat_setWidth, BitVec.toNat_ushiftRight, Nat.shiftRight_eq_div_pow,
    expectedByte_eq]
  rfl

/-- The input of a match with the given length and expected bit (R185). -/
def signedStrength (matchLen : BitVec 7) (bit : Bit) : Word :=
  if matchLen = 0 then 0 else if bit = 0 then -(matchStrength matchLen * 64) else matchStrength matchLen * 64

/-- The input is that of the length the test leaves: a match that is killed gives 0, like one that was dead. -/
theorem matchInput_eq_signedStrength (s : State) :
    matchInput s = signedStrength (killMatch s).matchLen (bitExpected s) := by
  have hdead : s.matchLen = 0 ↔ ¬matchAlive s = true := by
    rw [matchAlive_iff, ← BitVec.toNat_inj, Nat.not_lt, Nat.le_zero]
    rfl
  rw [killMatch_matchLen, matchInput, signedStrength]
  by_cases ha : matchAgrees s = true
  · by_cases hl : matchAlive s = true
    · rw [if_pos ha, if_pos (Bool.and_eq_true_iff.2 ⟨hl, ha⟩), if_neg (mt hdead.1 (not_not_intro hl))]
    · rw [if_pos ha, if_neg (fun h => hl (Bool.and_eq_true_iff.1 h).1), if_pos (hdead.2 hl)]
  · rw [if_neg ha, if_neg (fun h => ha (Bool.and_eq_true_iff.1 h).2), if_pos rfl]

/-- Nothing wraps: 64 times the strength is far below `2 ^ 31`. -/
theorem signedStrength_toInt (n : BitVec 7) (bit : Bit) : (signedStrength n bit).toInt =
    if n.toNat = 0 then 0
    else if bit = 0 then -(64 * ((matchStrength n).toNat : Int)) else 64 * ((matchStrength n).toNat : Int) := by
  have hn := n.isLt
  have hvalue := matchStrength_toNat n
  have hle : (matchStrength n).toNat ≤ 37 := by
    rw [hvalue]
    split_ifs <;> omega
  have h64 : (64 : Word).toNat = 64 := rfl
  have hscaled : (matchStrength n * 64).toInt = 64 * (matchStrength n).toNat := by
    rw [BitVec.toInt_eq_toNat_cond, BitVec.toNat_mul, h64]
    omega
  have hzero : n = 0 ↔ n.toNat = 0 := BitVec.toNat_inj.symm
  rw [signedStrength]
  simp only [hzero]
  split_ifs
  · rfl
  · rw [BitVec.toInt_neg, hscaled]
    exact Int.bmod_eq_of_le (by omega) (by omega)
  · exact hscaled

/-! ### The finder -/

section
variable {s : State}

theorem findMatch_of_alive (h : 0 < s.matchLen.toNat) : findMatch s = extendMatch s := by
  obtain ⟨-, hfind⟩ | ⟨hdead, -⟩ := findMatch_cases s
  · exact hfind
  · omega

/-- From a sound match and entries before the current position, the finder makes a match capped and behind it. -/
theorem findMatch_sound (hlen : s.matchLen.toNat ≤ maxLen)
    (hbehind : 0 < s.matchLen.toNat → s.matchPos.toNat + 1 < s.pos.toNat)
    (hentry : ∀ i, (s.hashEntry i).toNat < s.pos.toNat) :
    (findMatch s).matchLen.toNat ≤ maxLen ∧
      (0 < (findMatch s).matchLen.toNat → (findMatch s).matchPos.toNat < s.pos.toNat) := by
  obtain ⟨halive, hfind⟩ | ⟨hdead, hfind⟩ := findMatch_cases s
  · have hone : (1 : Word).toNat = 1 := rfl
    have hpos := hbehind halive
    rw [hfind, extendMatch_matchLen s hlen, extendMatch_matchPos, BitVec.toNat_add, hone]
    exact ⟨min_le_right _ _, fun _ => (Nat.mod_le _ _).trans_lt hpos⟩
  · rw [hfind]
    by_cases hok : candidateOk s (s.hashEntry s.h.toNat) = true
    · rw [lookUpMatch_matchLen hok, lookUpMatch_matchPos hok]
      exact ⟨(walkBack_spec s _ maxLen 1).1, fun _ => hentry _⟩
    · rw [lookUpMatch_of_not_candidateOk hok]
      exact ⟨hlen, fun h => absurd h (by omega)⟩

/-! ### The match after an `UPD` -/

variable (r : Rom) (y : Bit)

theorem updState_matchLen_inside (h : s.c0.toNat % 256 < 128) :
    (updState r y s).matchLen = if matchAgrees (updState r y s) = true then s.matchLen else 0 := by
  rw [updState_matchLen, takeBit_trained_inside r y s h]
  simp

/-- A live match at a byte boundary is extended (R178). -/
theorem updState_extends (hlow : 128 ≤ s.c0.toNat) (hhigh : s.c0.toNat ≤ 255) (halive : 0 < s.matchLen.toNat)
    (hlen : s.matchLen.toNat ≤ maxLen) :
    (updState r y s).matchLen.toNat = min (s.matchLen.toNat + 1) maxLen ∧
      (updState r y s).matchPos = s.matchPos + 1 := by
  obtain ⟨u, hu⟩ := updState_finderRanOn r y hlow hhigh
  have hfind : findMatch u = extendMatch u := findMatch_of_alive (by rwa [hu.entry_matchLen])
  rw [hu.matchLen, hu.matchPos, hfind, extendMatch_matchLen u (by rwa [hu.entry_matchLen]), extendMatch_matchPos,
    hu.entry_matchLen, hu.entry_matchPos]
  exact ⟨rfl, rfl⟩

/-- The match input comes last of the eight (R118). -/
theorem gatherInputs_match (r : Rom) (s : State) : (gatherInputs r s)[7] = matchInput s := by
  simp [gatherInputs]

/-- The active record caches the input of the match that the command leaves. -/
theorem updState_matchInput : ((updState r y s).mixer (updState r y s).mixIdx.toNat).p[7] =
    signedStrength (updState r y s).matchLen (bitExpected (updState r y s)) := by
  have hlen : (killMatch (advanceHistories r y (takeBit r y (trainActiveMixer y s)))).matchLen =
      (updState r y s).matchLen := by
    simp [updState, predict]
  have hbit : bitExpected (advanceHistories r y (takeBit r y (trainActiveMixer y s))) =
      bitExpected (updState r y s) := by
    simp [bitExpected, expectedByte]
  rw [updState_mixer, if_pos rfl, ← hlen, ← hbit, ← matchInput_eq_signedStrength]
  exact gatherInputs_match r _

/-! ### Every step keeps the match sound -/

variable {r y}

theorem updState_matchInv_inside (hm : MatchInv s) (h : s.c0.toNat % 256 < 128) : MatchInv (updState r y s) := by
  have hf := updState_bitFolded r y s h
  have hlen := updState_matchLen_inside r y h
  by_cases hagrees : matchAgrees (updState r y s) = true
  · rw [if_pos hagrees] at hlen
    refine ⟨?_, ?_, fun _ => hagrees, fun i => ?_⟩
    · rw [hlen]
      exact hm.len_le
    · rw [hlen, hf.matchPos, hf.pos]
      exact hm.behind
    · rw [hf.hashEntry, hf.pos]
      exact hm.entry_le i
  · rw [if_neg hagrees] at hlen
    have hdead : (updState r y s).matchLen.toNat = 0 := congrArg BitVec.toNat hlen
    refine ⟨by omega, fun halive => by omega, fun halive => by omega, fun i => ?_⟩
    rw [hf.hashEntry, hf.pos]
    exact hm.entry_le i

theorem updState_matchInv_boundary (ha : UpdAccepted s) (hc : CounterInv s) (hm : MatchInv s) (h : 128 ≤ s.c0.toNat) :
    MatchInv (updState r y s) := by
  have ht := updState_byteTaken r y s (by rwa [hc.c0_mod])
  have hpos : (updState r y s).pos.toNat = s.pos.toNat + 1 := (congrArg BitVec.toNat ht.pos).trans (hc.pos_succ ha h).1
  obtain ⟨u, hu⟩ := updState_finderRanOn r y h hc.c0_le
  have hupos : u.pos.toNat = s.pos.toNat + 1 := by rw [hu.pos, hpos]
  obtain ⟨hlen, hbehind⟩ := findMatch_sound (s := u) (by rw [hu.entry_matchLen]; exact hm.len_le)
    (by rw [hu.entry_matchLen, hu.entry_matchPos, hupos]; exact fun halive => Nat.succ_lt_succ (hm.behind halive))
    (fun i => by rw [hu.entry_hashEntry, hupos]; exact Nat.lt_succ_of_le (hm.entry_le i))
  refine ⟨by rwa [hu.matchLen], by rwa [hu.matchLen, hu.matchPos, ← hu.pos], fun _ => matchAgrees_start _ ht.c0 ht.bpos,
    fun i => ?_⟩
  rw [ht.hashEntry]
  split
  · exact le_rfl
  · rw [hpos]
    exact (hm.entry_le i).trans (Nat.le_succ _)

theorem updState_matchInv (ha : UpdAccepted s) (hc : CounterInv s) (hm : MatchInv s) : MatchInv (updState r y s) := by
  rcases hc.updState_cases r y with ⟨-, h⟩ | ⟨-, h⟩
  · exact updState_matchInv_inside hm (by rwa [hc.c0_mod])
  · exact updState_matchInv_boundary ha hc hm h
end

theorem matchInv_initial (sl : StoreSize) (ml : PoolSize) : MatchInv (State.initial sl ml) where
  len_le := Nat.zero_le _
  behind h := absurd h (Nat.lt_irrefl 0)
  agrees h := absurd h (Nat.lt_irrefl 0)
  entry_le i := by
    rw [initial_hashEntry]
    exact Nat.zero_le _

theorem matchInv_withPorts (s : State) (ws : List Byte) (a : Option (BitVec 16)) (hm : MatchInv s) :
    MatchInv (s.withPorts ws a) := { hm with }

/-- Settles O50: inside a byte the agreement test keeps the match, at a boundary the finder makes a sound one, and the
position recorded is the new one. -/
theorem stepKeepsTheMatchSound : Obligations.StepKeepsTheMatchSound := fun _ _ =>
  step_preserves_beside_counters matchInv_withPorts matchInv_initial fun _ _ => updState_matchInv

/-! ### The statements on one `UPD` -/

/-- Settles O26: the finder extends the match, and the first bit of a byte kills none. -/
theorem updExtendsALiveMatch : Obligations.UpdExtendsALiveMatch := by
  intro y s ha hlow hhigh halive hlen
  refine ⟨_, exec_upd_accepted ha, ?_⟩
  rw [State.respond_matchLen, State.respond_matchPos]
  exact updState_extends Config.rom y hlow hhigh halive hlen

/-- Settles O28: inside a byte nothing the test reads moves but the partial byte and `bpos`. -/
theorem updKillsADisagreeingMatch : Obligations.UpdKillsADisagreeingMatch := by
  intro y s ha hc0 _
  have hf := updState_bitFolded Config.rom y s (by omega)
  refine ⟨_, exec_upd_accepted ha, (State.respond_matchPos ..).trans hf.matchPos, ?_⟩
  rw [State.respond_matchLen, State.respond_bpos, State.respond_c0, updState_matchLen_inside Config.rom y (by omega)]
  simp only [matchAgrees_iff, hf.bufferByte, hf.matchPos]

/-- Settles O29: the record caches the input of the match that is left, and nothing in it wraps. -/
theorem updGathersTheMatchInput : Obligations.UpdGathersTheMatchInput := by
  intro y s ha
  refine ⟨_, exec_upd_accepted ha, ?_⟩
  have hinput := updState_matchInput Config.rom y (s := s)
  simp only [State.mixer_respond, State.respond_mixIdx, State.respond_matchLen, State.respond_matchPos,
    State.respond_bpos, State.bufferByte_respond, ← bitExpected_eq_zero_iff]
  rw [hinput, signedStrength_toInt, matchStrength_toNat]
  generalize updState Config.rom y s = t
  split_ifs <;> omega

/-- Settles O31: with seven bits received the test compares the upper seven bits. -/
theorem extendedMatchAgreesOnSevenBits : Obligations.ExtendedMatchAgreesOnSevenBits := by
  intro y s _ hc hm hlow halive
  have hy := Bit.toNat_le y
  have hhigh := hc.c0_le
  have hagrees := (matchAgrees_iff s).1 (hm.agrees halive)
  rw [hc.bpos_eq_seven hlow] at hagrees
  change (s.bufferByte (s.matchPos.toNat % 2 ^ 26)).toNat / 2 = _
  omega

/-- A state seven zeros into a byte, with a live match that expects the byte 1 at index 0. -/
def sevenBitsAgreed : State :=
  { State.reset with c0 := 128, bpos := 7, matchLen := 1, matchPos := 0, pos := 2, buffer := [(0, 1)] }

theorem counterInv_sevenBitsAgreed : CounterInv sevenBitsAgreed := by
  constructor <;> decide

theorem matchInv_sevenBitsAgreed : MatchInv sevenBitsAgreed where
  len_le := by decide
  behind _ := by decide
  agrees _ := by decide
  entry_le _ := Nat.zero_le _

/-- Settles O30: at the state above the eighth bit is 0, and the match is extended over the byte 0. -/
theorem extendedMatchMayMissTheLastBit : Obligations.ExtendedMatchMayMissTheLastBit := by
  have ha : UpdAccepted sevenBitsAgreed := updAccepted_of_pos_ne (by decide)
  have ht := updState_byteTaken Config.rom 0 sevenBitsAgreed (by decide)
  obtain ⟨hlen, hmatchPos⟩ :=
    updState_extends Config.rom 0 (s := sevenBitsAgreed) (by decide) (by decide) (by decide) (by decide)
  refine ⟨0, sevenBitsAgreed, _, counterInv_sevenBitsAgreed, matchInv_sevenBitsAgreed, ha, by decide,
    exec_upd_accepted ha, by decide, ?length, ?bytes⟩
  case length =>
    rw [State.respond_matchLen, hlen]
    decide
  case bytes =>
    rw [State.bufferByte_respond, State.bufferByte_respond, State.respond_matchPos, State.respond_pos, hmatchPos,
      ht.pos, ht.bufferByte, ht.bufferByte]
    decide

end Sys2Proof.Machine

/-! ## Training, and the learning rates (R198, R200, R205, R209, R210)

The raw error is a number of 13 bits and a sign, and the rate is at most 7680, so their product is far from wrapping.
The rate falls by one with each non-zero error until it meets its end value. -/

namespace Sys2Proof.Machine

section
variable {y : Bit} {m : Mixer}

theorem Mixer.rawError_toInt (y : Bit) (m : Mixer) : (m.rawError y).toInt = 4096 * y.toNat - m.pr.toNat := by
  have hy := Bit.toNat_le y
  have hp := m.pr.isLt
  have htarget : (y.setWidth 32 <<< 12).toInt = 4096 * y.toNat := by
    rw [BitVec.toInt_eq_toNat_cond, BitVec.toNat_shiftLeft, BitVec.toNat_setWidth, Nat.shiftLeft_eq]
    omega
  have houtput : (m.pr.setWidth 32).toInt = m.pr.toNat := by
    rw [BitVec.toInt_eq_toNat_cond, BitVec.toNat_setWidth]
    omega
  rw [Mixer.rawError, BitVec.toInt_sub, htarget, houtput]
  exact Int.bmod_eq_of_le (by omega) (by omega)

/-- The error is zero only for the bit 0 and a cached output of 0 (R209). -/
theorem Mixer.rawError_eq_zero_iff : m.rawError y = 0 ↔ y = 0 ∧ m.pr = 0 := by
  have hy := Bit.toNat_le y
  have hp := m.pr.isLt
  have hvalue := Mixer.rawError_toInt y m
  have hzero : (0 : Word).toInt = 0 := rfl
  rw [← BitVec.toInt_inj, hvalue, hzero, ← BitVec.toNat_inj, ← BitVec.toNat_inj]
  change _ ↔ y.toNat = 0 ∧ m.pr.toNat = 0
  omega

/-- The rate times the raw error, bounded and with the error's sign. -/
theorem errorTimesRate_bounds {e : Int} {n : Nat} (he : -4095 ≤ e) (he' : e ≤ 4096) (hn : 1792 ≤ n) (hn' : n ≤ 7680) :
    -31457280 ≤ e * n ∧ e * n ≤ 31457280 ∧ (0 < e → 1792 ≤ e * n) ∧ (e < 0 → e * n < 0) := by
  have hn : (1792 : Int) ≤ n := by exact_mod_cast hn
  have hn' : (n : Int) ≤ 7680 := by exact_mod_cast hn'
  refine ⟨by nlinarith, by nlinarith, fun hpos => ?_, fun hneg => mul_neg_of_neg_of_pos hneg (by omega)⟩
  calc (1792 : Int) ≤ 1 * n := by omega
    _ ≤ e * n := Int.mul_le_mul_of_nonneg_right hpos (by omega)

/-- The scaled error is the exact quotient, rounded down. -/
theorem Mixer.scaledError_toInt (hlow : 1792 ≤ m.learnRate.toNat) (hhigh : m.learnRate.toNat ≤ 7680) :
    (m.scaledError y).toInt = (4096 * y.toNat - m.pr.toNat) * m.learnRate.toNat / 128 := by
  have hy := Bit.toNat_le y
  have hp := m.pr.isLt
  have hrate : m.learnRate.toInt = m.learnRate.toNat := BitVec.toInt_eq_toNat_of_lt (by omega)
  obtain ⟨hlo, hhi, -, -⟩ := errorTimesRate_bounds (e := 4096 * y.toNat - m.pr.toNat) (by omega) (by omega) hlow hhigh
  have hproduct : (m.rawError y * m.learnRate).toInt = (4096 * y.toNat - m.pr.toNat) * m.learnRate.toNat := by
    rw [BitVec.toInt_mul, Mixer.rawError_toInt, hrate]
    exact Int.bmod_eq_of_le (by omega) (by omega)
  rw [Mixer.scaledError, asr_toInt, hproduct]
  rfl

/-- Settles O40: the product is bounded, and its quotient keeps its sign because the rate is at least 128. -/
theorem scaledErrorNeverWraps : Obligations.ScaledErrorNeverWraps := by
  intro y m hlow hhigh
  have hy := Bit.toNat_le y
  have hp := m.pr.isLt
  obtain ⟨hlo, hhi, hpos, hneg⟩ :=
    errorTimesRate_bounds (e := 4096 * y.toNat - m.pr.toNat) (by omega) (by omega) hlow hhigh
  have hexact := Mixer.scaledError_toInt (y := y) hlow hhigh
  exact ⟨hexact, by omega, by omega, fun he => by have := hpos he; omega, fun he => by have := hneg he; omega⟩

/-- The arithmetic shift by 31 is the sign: the rate falls by one while it is above its end value (R200). -/
theorem rateDecay_toNat {n : Word} (hlow : 1792 ≤ n.toNat) (hhigh : n.toNat ≤ 7680) :
    (n + asr (endRate - n) 31).toNat = max 1792 (n.toNat - 1) := by
  have hend : (1792 : Word).toInt = 1792 := rfl
  have hn : n.toInt = n.toNat := BitVec.toInt_eq_toNat_of_lt (by omega)
  have hdiff : (endRate - n).toInt = 1792 - n.toNat := by
    rw [BitVec.toInt_sub, hend, hn]
    exact Int.bmod_eq_of_le (by omega) (by omega)
  have hsign := asr_toInt (endRate - n) 31
  rw [hdiff, BitVec.toInt_eq_toNat_cond] at hsign
  rw [BitVec.toNat_add]
  omega

/-- Settles O41, by the case of a zero error. -/
theorem learningRateDecaysByOne : Obligations.LearningRateDecaysByOne := by
  intro y m hlow hhigh
  by_cases hzero : m.rawError y = 0
  · rw [Mixer.train_of_rawError_eq_zero hzero, if_pos (Mixer.rawError_eq_zero_iff.1 hzero)]
  · rw [(Mixer.train_of_rawError_ne_zero hzero).2.1, if_neg (mt Mixer.rawError_eq_zero_iff.2 hzero)]
    exact rateDecay_toNat hlow hhigh
end

/-! ### Every step keeps the rates -/

section
variable {r : Rom} {y : Bit} {s : State}

/-- The rate of every record after an `UPD` is that of training: the forward pass writes no rate (R196). -/
theorem updState_learnRate (r : Rom) (y : Bit) (s : State) (j : Nat) :
    ((updState r y s).mixer j).learnRate = ((trainActiveMixer y s).mixer j).learnRate := by
  rw [updState_mixer]
  split
  · exact (Mixer.forward_fields r _ _).2.2.1
  · rfl

theorem updState_rateInv (hr : RateInv s) : RateInv (updState r y s) := by
  intro j
  rw [updState_learnRate, trainActiveMixer_mixer]
  split
  · obtain ⟨hlow, hhigh⟩ := hr j
    rw [learningRateDecaysByOne y (s.mixer j) hlow hhigh]
    change 1792 ≤ _ at hlow
    change _ ≤ 7680 at hhigh
    change 1792 ≤ _ ∧ _ ≤ 7680
    split <;> omega
  · exact hr j
end

theorem rateInv_initial (sl : StoreSize) (ml : PoolSize) : RateInv (State.initial sl ml) := by
  intro j
  rw [initial_mixer]
  decide

/-- Settles O52: an `UPD` trains one record, whose rate falls no further than its end value. -/
theorem stepKeepsTheLearningRates : Obligations.StepKeepsTheLearningRates := fun _ _ =>
  step_preserves (fun _ _ _ hr => hr) rateInv_initial fun _ _ _ => updState_rateInv

end Sys2Proof.Machine

/-! ## Good states (R46, R47, R66, R106, R260)

The reset states satisfy all eight parts of the invariant under every size, the ports enter none of them, and the
sections above show that a step keeps each; a run of any length keeps them by induction. -/

namespace Sys2Proof.Machine

theorem inv_initial (r : Rom) (sl : StoreSize) (ml : PoolSize) : (State.initial sl ml).Inv r where
  counter := counterInv_initial sl ml
  index := indexInv_initial sl ml
  memory := memoryInv_initial r sl ml
  matching := matchInv_initial sl ml
  history := historyInv_initial sl ml
  context := contextInv_initial r sl ml
  rate := rateInv_initial sl ml
  slots := slotInv_initial r sl ml

/-- Settles O46: power-on reset is the reset state of the sizes 28 and 12. -/
theorem resetIsAGoodState : Obligations.ResetIsAGoodState := inv_initial Config.rom .sl28 .ml12

theorem inv_withPorts {r : Rom} {s : State} (ws : List Byte) (a : Option (BitVec 16)) (hs : s.Inv r) :
    (s.withPorts ws a).Inv r where
  counter := counterInv_withPorts s ws a hs.counter
  index := indexInv_withPorts s ws a hs.index
  memory := memoryInv_withPorts r s ws a hs.memory
  matching := matchInv_withPorts s ws a hs.matching
  history := hs.history
  context := contextInv_withPorts r s ws a hs.context
  rate := hs.rate
  slots := hs.slots

/-- Settles O47: `INIT` makes a reset state but for the ports. -/
theorem initMakesAGoodState : Obligations.InitMakesAGoodState := fun ss ms s =>
  ⟨_, exec_init_eq_initial ss ms s, inv_withPorts _ _ (inv_initial Config.rom _ _)⟩

/-- Settles O14: what `INIT` makes reads only the words to come. -/
theorem initForgetsThePreviousState : Obligations.InitForgetsThePreviousState := by
  intro ss ms s s' hcmd
  rw [exec_init_eq_initial, exec_init_eq_initial, hcmd]

/-- Settles O15: the selectors 2, 2 name the sizes of the reset state. -/
theorem powerOnResetIsInitTwoTwo : Obligations.PowerOnResetIsInitTwoTwo := exec_init_eq_initial 2 2

theorem step_inv {s t : State} (hs : s.Inv Config.rom) (h : step s = .next t) : t.Inv Config.rom where
  counter := stepKeepsTheCounters s t hs.counter h
  index := (stepKeepsMemoriesCanonical s t hs.index hs.memory h).1
  memory := (stepKeepsMemoriesCanonical s t hs.index hs.memory h).2
  matching := stepKeepsTheMatchSound s t hs.counter hs.matching h
  history := stepKeepsTheByteHistory s t hs.counter hs.history h
  context := step_contextInv hs.context h
  rate := stepKeepsTheLearningRates s t hs.rate h
  slots := stepKeepsSlotsReachable s t hs.slots h

/-- Settles O54, by induction on the number of steps. -/
theorem runsStayInGoodStates : Obligations.RunsStayInGoodStates := by
  intro n s t hs hrun
  induction n generalizing s with
  | zero =>
    cases hrun
    exact hs
  | succ n ih =>
    obtain ⟨u, hu⟩ := step_completes s
    rw [steps_succ hu] at hrun
    exact ih u (step_inv hs hu) hrun

end Sys2Proof.Machine

/-! ## The frame of an `UPD`, and the order of steps 7 and 8 (R37, R217, R222, R226)

What an `UPD` leaves as it was is read off the writes of the sections above. The low byte of an APM context is the
partial byte, which no accepted `UPD` leaves as it was, so the pair trained and the pair looked up lie in different
rows. -/

namespace Sys2Proof.Machine

/-! ### Frames -/

section
variable (r : Rom) (y : Bit) {s : State}

theorem updState_slot_of_unnamed {i : Nat} (h : ∀ k : Fin 7, s.cp[k].toNat ≠ i) :
    (updState r y s).slot i = s.slot i := by
  have hnone : (List.finRange 7).countP (fun k : Fin 7 => s.cp[k].toNat == i) = 0 :=
    List.countP_eq_zero.2 fun k _ => by rw [beq_iff_eq]; exact h k
  rw [updState_slot_of_entry, hnone, Function.iterate_zero_apply]

theorem updState_bufferByte_of_ne {i : Nat} (h : s.c0.toNat < 128 ∨ i ≠ s.pos.toNat % 2 ^ 26) :
    (updState r y s).bufferByte i = s.bufferByte i := by
  rcases updState_cases r y s with ⟨hf, -⟩ | ⟨ht, hlow⟩
  · exact hf.bufferByte i
  · rw [ht.bufferByte, modN_eq, if_neg fun hi => h.elim (fun _ => by omega) (fun hne => hne hi.symm)]

theorem updState_hashEntry_of_ne {i : Nat} (h : s.c0.toNat < 128 ∨ i ≠ (updState r y s).h.toNat) :
    (updState r y s).hashEntry i = s.hashEntry i := by
  rcases updState_cases r y s with ⟨hf, -⟩ | ⟨ht, hlow⟩
  · exact hf.hashEntry i
  · rw [ht.hashEntry, if_neg fun hi => h.elim (fun _ => by omega) (fun hne => hne hi.symm)]

/-- A record that is not run keeps what training left of it. -/
theorem updState_mixer_of_ne_new {j : Nat} (h : j ≠ (updState r y s).mixIdx.toNat) :
    (updState r y s).mixer j = (trainActiveMixer y s).mixer j := by
  rw [updState_mixer, if_neg h.symm]

/-- A record that was not active on entry is not trained. -/
theorem trainActiveMixer_mixer_of_ne {j : Nat} (h : j ≠ s.mixIdx.toNat) :
    (trainActiveMixer y s).mixer j = s.mixer j := by
  rw [trainActiveMixer_mixer, if_neg h.symm]

/-- Where the active record changes, the old one is trained only and keeps its cached inputs and output. -/
theorem updState_old_mixer_cached (h : (updState r y s).mixIdx ≠ s.mixIdx) :
    ((updState r y s).mixer s.mixIdx.toNat).p = (s.mixer s.mixIdx.toNat).p ∧
    ((updState r y s).mixer s.mixIdx.toNat).pr = (s.mixer s.mixIdx.toNat).pr := by
  rw [updState_mixer_of_ne_new r y fun heq => h (BitVec.eq_of_toNat_eq heq.symm), trainActiveMixer_mixer, if_pos rfl]
  exact Mixer.train_cached y _

/-- Where the active record changes, the new one is run only and keeps its weights, skew and rate. -/
theorem updState_new_mixer_trained (h : (updState r y s).mixIdx ≠ s.mixIdx) :
    ((updState r y s).mixer (updState r y s).mixIdx.toNat).w = (s.mixer (updState r y s).mixIdx.toNat).w ∧
    ((updState r y s).mixer (updState r y s).mixIdx.toNat).skew = (s.mixer (updState r y s).mixIdx.toNat).skew ∧
    ((updState r y s).mixer (updState r y s).mixIdx.toNat).learnRate =
      (s.mixer (updState r y s).mixIdx.toNat).learnRate := by
  rw [updState_mixer, if_pos rfl, trainActiveMixer_mixer_of_ne y fun heq => h (BitVec.eq_of_toNat_eq heq)]
  generalize gatherInputs r _ = p
  obtain ⟨hw, hskew, hrate, -, -⟩ := Mixer.forward_fields r p (s.mixer (updState r y s).mixIdx.toNat)
  exact ⟨hw, hskew, hrate⟩

theorem updState_apmCell_of_ne {i : Nat} (h : i ≠ s.apmIdx.toNat) (h' : i ≠ s.apmIdx.toNat + 1) :
    (updState r y s).apmCell r i = s.apmCell r i := by
  rw [updState_apmCell, if_neg (not_or.2 ⟨h, h'⟩)]
end

/-- Settles O19, memory by memory. -/
theorem updLeavesEverythingElse : Obligations.UpdLeavesEverythingElse := by
  intro y s ha
  refine ⟨_, exec_upd_accepted ha, ?_⟩
  simp only [State.respond_sl, State.respond_ml, State.respond_cmdIn, State.slot_respond, State.bufferByte_respond,
    State.hashEntry_respond, State.respond_h, State.mixer_respond, State.respond_mixIdx, State.apmCell_respond]
  refine ⟨by simp, by simp, by simp, fun i => updState_slot_of_unnamed Config.rom y,
    fun i => updState_bufferByte_of_ne Config.rom y, fun i => updState_hashEntry_of_ne Config.rom y,
    fun j hold hnew => ?mixer, fun hmoved => ?active, fun i => updState_apmCell_of_ne Config.rom y⟩
  case mixer => exact (updState_mixer_of_ne_new Config.rom y hnew).trans (trainActiveMixer_mixer_of_ne y hold)
  case active =>
    obtain ⟨hp, hpr⟩ := updState_old_mixer_cached Config.rom y hmoved
    exact ⟨hp, hpr, updState_new_mixer_trained Config.rom y hmoved⟩

/-! ### The prediction -/

/-- Settles O44: the bias step answers 2046 for 2047 and no other value becomes 2047 (R225). -/
theorem updNeverStoresTwentyFortySeven : Obligations.UpdNeverStoresTwentyFortySeven := by
  intro y s ha
  refine ⟨_, exec_upd_accepted ha, fun heq => ?_⟩
  rw [State.respond_pr, (updState_refined Config.rom y s).2, ← BitVec.toNat_inj, bias_toNat] at heq
  change _ = 2047 at heq
  split at heq <;> omega

/-! ### The two pairs of an `UPD` -/

/-- The low byte of the APM context is the partial byte (R218). -/
theorem apmContext_mod {c0 : BitVec 9} (h : c0.toNat ≤ 255) (c4 : Word) :
    (apmContext c0 c4).toNat % 2 ^ 8 = c0.toNat := by
  have hmask : (0xFF00 : Word).toNat % 2 ^ 8 = 0 := rfl
  rw [apmContext, BitVec.toNat_or, BitVec.toNat_and, BitVec.toNat_setWidth, Nat.or_mod_two_pow, Nat.and_mod_two_pow,
    hmask, Nat.and_zero, Nat.or_zero]
  omega

/-- An accepted `UPD` changes the partial byte: it doubles it, or starts the next one at 1. -/
theorem updState_c0_ne (r : Rom) (y : Bit) {s : State} (hc : CounterInv s) :
    (updState r y s).c0.toNat ≠ s.c0.toNat := by
  have hpos := hc.c0_pos
  rcases hc.updState_cases r y with ⟨hf, h⟩ | ⟨ht, h⟩
  · rw [hf.c0_toNat h]
    omega
  · rw [ht.c0]
    change 1 ≠ _
    omega

/-- The pair looked up lies in another row than the pair trained, and neither reaches over the end of its row. -/
theorem updState_apm_pairs_disjoint (r : Rom) (y : Bit) {s : State} (ha : UpdAccepted s) (hc : CounterInv s)
    (hi : IndexInv s) : s.apmIdx.toNat + 1 < (updState r y s).apmIdx.toNat ∨
      (updState r y s).apmIdx.toNat + 1 < s.apmIdx.toNat := by
  have hnew := updState_counterInv r y ha hc
  have hpos := hnew.c0_pos
  have hne := updState_c0_ne r y hc
  have hold := apmContext_mod hc.c0_le s.c4
  have hrow := apmContext_mod hnew.c0_le (updState r y s).c4
  have hcol := hi.apm_col
  have hentry := hi.apm_row
  obtain ⟨k, hk, hidx⟩ := updState_apmIdx r y s
  omega

/-- Settles O45: the pairs are disjoint, and the training write leaves every cell outside its own pair. -/
theorem trainingAndLookupOrderIsUnobservable : Obligations.TrainingAndLookupOrderIsUnobservable := by
  intro y s ha hc hi
  refine ⟨_, exec_upd_accepted ha, ?_⟩
  rw [State.respond_apmIdx, State.apmCell_respond, State.apmCell_respond]
  have hdisjoint := updState_apm_pairs_disjoint Config.rom y ha hc hi
  exact ⟨hdisjoint, updState_apmCell_of_ne Config.rom y (by omega) (by omega),
    updState_apmCell_of_ne Config.rom y (by omega) (by omega)⟩

end Sys2Proof.Machine

/-! ## The representation of a memory (R107)

A canonical list holds exactly the pairs of an index and the element read there that is not at its reset value, in the
order of the indices. So what a memory reads as determines the list. -/

namespace Sys2Proof.Machine

variable {α : Type} {dflt : Nat → α}

theorem Store.read_of_mem {m : List (Nat × α)} (hm : m.Pairwise fun a b => a.1 < b.1) {i : Nat} {v : α}
    (h : (i, v) ∈ m) : Store.read dflt m i = v := by
  induction m with
  | nil => cases h
  | cons a m ih =>
    obtain ⟨hfirst, hrest⟩ := List.pairwise_cons.1 hm
    rw [Store.read_cons]
    rcases List.mem_cons.1 h with rfl | hin
    · exact if_pos rfl
    · rw [if_neg (Nat.ne_of_lt (hfirst _ hin)), ih hrest hin]

theorem Store.mem_iff {size : Nat} {m : List (Nat × α)} (hm : Store.wf dflt size m) (e : Nat × α) :
    e ∈ m ↔ Store.read dflt m e.1 = e.2 ∧ e.2 ≠ dflt e.1 := by
  have ⟨hsorted, _, hreset⟩ := hm
  refine ⟨fun h => ⟨Store.read_of_mem hsorted h, hreset e h⟩, fun ⟨hread, hne⟩ => ?_⟩
  obtain ⟨v, hv⟩ := (Store.mem_iff_read hm e.1).2 (by rwa [hread])
  obtain rfl : v = e.2 := (Store.read_of_mem hsorted hv).symm.trans hread
  exact hv

/-- Settles O56: the two lists have the same pairs in the same order. -/
theorem canonicalMemoriesThatReadAlikeAreEqual : Obligations.CanonicalMemoriesThatReadAlikeAreEqual := by
  intro α dflt size m n hm hn hread
  have hirrefl : Std.Irrefl fun a b : Nat × α => a.1 < b.1 := ⟨fun a => Nat.lt_irrefl a.1⟩
  have hantisymm : Std.Antisymm fun a b : Nat × α => a.1 < b.1 := ⟨fun a b hab hba => absurd hab (Nat.lt_asymm hba)⟩
  refine List.Pairwise.eq_of_mem_iff hm.1 hn.1 fun e => ?_
  rw [Store.mem_iff hm, Store.mem_iff hn, hread]

end Sys2Proof.Machine

/-! ## The defaults of `SQUASH` and `HSTEP`, and the hash corners (R151 to R154, R160, R201, R202)

Between its saturations the default `SQUASH` is a weighted mean of two neighbouring knots, and the knots rise, so it
rises inside each interval and from one to the next. The default `HSTEP` multiplies the old hash by a multiple of 16:
each byte pushes what two histories disagree on up by four bits, out of the 24 after six bytes. -/

namespace Sys2Proof.Machine

/-! ### The knots of the default `SQUASH` -/

/-- Knot `i`, as a number. -/
def knot (i : Nat) : Nat := squashKnots.getD i 0

/-- The weighted mean of the knots `i` and `i + 1`, rounded to nearest (R201). -/
def knotMean (i w : Nat) : Nat := (knot i * (128 - w) + knot (i + 1) * w + 64) / 128

theorem knot_mono : ∀ j ≤ 32, ∀ i ≤ j, knot i ≤ knot j := by decide

theorem knot_le {i : Nat} (hi : i ≤ 32) : knot i ≤ 4094 := (knot_mono 32 le_rfl i hi).trans (by decide)

theorem squashKnot_toNat {i : Word} (hi : i.toNat ≤ 32) : (squashKnot i).toNat = knot i.toNat := by
  have hle := knot_le hi
  rw [squashKnot, BitVec.toNat_ofNat]
  exact Nat.mod_eq_of_lt (by change knot i.toNat < _; omega)

/-- The mean is the lower knot and a part of the rise to the upper one. -/
theorem knotMean_eq {i w : Nat} (hi : i < 32) (hw : w ≤ 128) :
    knotMean i w = (knot i * 128 + (knot (i + 1) - knot i) * w + 64) / 128 := by
  have hrise : knot i * w + (knot (i + 1) - knot i) * w = knot (i + 1) * w := by
    rw [← Nat.add_mul, Nat.add_sub_cancel' (knot_mono (i + 1) hi i (Nat.le_succ i))]
  have hwhole : knot i * (128 - w) + knot i * w = knot i * 128 := by rw [← Nat.mul_add, Nat.sub_add_cancel hw]
  rw [knotMean]
  congr 1
  omega

theorem knotMean_mono {i v w : Nat} (hi : i < 32) (hw : w ≤ 128) (hvw : v ≤ w) : knotMean i v ≤ knotMean i w := by
  rw [knotMean_eq hi (hvw.trans hw), knotMean_eq hi hw]
  gcongr

/-- The mean lies between its two knots. -/
theorem knotMean_bounds {i w : Nat} (hi : i < 32) (hw : w ≤ 128) :
    knot i ≤ knotMean i w ∧ knotMean i w ≤ knot (i + 1) := by
  have hknots := knot_mono (i + 1) hi i (Nat.le_succ i)
  have hpart : (knot (i + 1) - knot i) * w ≤ (knot (i + 1) - knot i) * 128 := Nat.mul_le_mul_left _ hw
  rw [knotMean_eq hi hw]
  omega

/-- A mean further to the right is not smaller, whether in the same interval or in a later one. -/
theorem knotMean_le_knotMean {i j v w : Nat} (hj : j < 32) (hv : v ≤ 128) (hw : w ≤ 128) (hij : i < j ∨ i = j ∧ v ≤ w) :
    knotMean i v ≤ knotMean j w := by
  rcases hij with hlt | ⟨rfl, hvw⟩
  · calc knotMean i v ≤ knot (i + 1) := (knotMean_bounds (hlt.trans hj) hv).2
      _ ≤ knot j := knot_mono j hj.le (i + 1) hlt
      _ ≤ knotMean j w := (knotMean_bounds hj hw).1
  · exact knotMean_mono hj hw hvw

/-! ### The default `SQUASH` in numbers -/

theorem weightedMean_toNat {a b w : Word} (ha : a.toNat ≤ 4094) (hb : b.toNat ≤ 4094) (hw : w.toNat ≤ 128) :
    (asr (a * (128 - w) + b * w + 64) 7).toNat = (a.toNat * (128 - w.toNat) + b.toNat * w.toNat + 64) / 128 := by
  have hrest : (128 - w).toNat = 128 - w.toNat := BitVec.toNat_sub_of_le hw
  have hleft : a.toNat * (128 - w.toNat) ≤ 4094 * (128 - w.toNat) := Nat.mul_le_mul_right _ ha
  have hright : b.toNat * w.toNat ≤ 4094 * w.toNat := Nat.mul_le_mul_right _ hb
  have hsum : (a * (128 - w) + b * w + 64).toNat = a.toNat * (128 - w.toNat) + b.toNat * w.toNat + 64 := by
    simp only [BitVec.toNat_add, BitVec.toNat_mul, hrest]
    change ((_ + _) % _ + 64) % _ = _
    omega
  rw [asr_toNat (by omega), hsum, show 2 ^ 7 = 128 from rfl]

theorem squashDefault_above {d : Word} (hd : 2047 < d.toInt) : squashDefault d = 4095 := by
  have hupper : (2047#32).slt d = true := BitVec.slt_iff_toInt_lt.2 hd
  exact if_pos hupper

theorem squashDefault_below {d : Word} (hd : d.toInt < -2047) : squashDefault d = 0 := by
  have hupper : ¬(2047#32).slt d = true := fun h => by
    have : 2047 < d.toInt := BitVec.slt_iff_toInt_lt.1 h
    omega
  have hlower : d.slt (-2047#32) = true := BitVec.slt_iff_toInt_lt.2 hd
  rw [squashDefault, if_neg hupper, if_pos hlower]

/-- Between the saturations the default `SQUASH` is the mean at its argument's interval and offset (R201). -/
theorem squashDefault_between {d : Word} (hlow : -2047 ≤ d.toInt) (hhigh : d.toInt ≤ 2047) :
    (squashDefault d).toNat = knotMean (d.toInt / 128 + 16).toNat (d.toInt % 128).toNat := by
  have hupper : ¬(2047#32).slt d = true := fun h => (BitVec.slt_iff_toInt_lt.1 h).not_ge hhigh
  have hlower : ¬d.slt (-2047#32) = true := fun h => (BitVec.slt_iff_toInt_lt.1 h).not_ge hlow
  have h16 : (16 : Word).toNat = 16 := rfl
  have h1 : (1 : Word).toNat = 1 := rfl
  have hweight : (d &&& 127).toNat = (d.toInt % 128).toNat := apmWeight_toNat d
  have hquotient : (asr d 7).toInt = d.toInt / 128 := asr_toInt d 7
  have hindex : (asr d 7 + 16).toNat = (d.toInt / 128 + 16).toNat := by
    rw [BitVec.toInt_eq_toNat_cond (asr d 7)] at hquotient
    rw [BitVec.toNat_add, h16]
    omega
  have hnext : (asr d 7 + 16 + 1).toNat = (d.toInt / 128 + 16).toNat + 1 := by
    rw [BitVec.toNat_add, hindex, h1]
    omega
  have hknot := squashKnot_toNat (i := asr d 7 + 16) (by omega)
  have hknot' := squashKnot_toNat (i := asr d 7 + 16 + 1) (by omega)
  have hle := knot_le (i := (asr d 7 + 16).toNat) (by omega)
  have hle' := knot_le (i := (asr d 7 + 16 + 1).toNat) (by omega)
  have hmean := weightedMean_toNat (w := d &&& 127) (hknot.trans_le hle) (hknot'.trans_le hle') (by omega)
  rw [hknot, hknot', hweight, hindex, hnext] at hmean
  have hfit := (knotMean_bounds (i := (d.toInt / 128 + 16).toNat) (w := (d.toInt % 128).toNat) (by omega) (by omega)).2
  rw [hnext] at hle'
  rw [squashDefault, if_neg hupper, if_neg hlower, BitVec.toNat_setWidth, hmean]
  exact Nat.mod_eq_of_lt (by change knotMean _ _ < _; omega)

/-- Settles O57: the saturations bound every value, and between them the argument's interval and offset rise with it. -/
theorem defaultSquashIsMonotone : Obligations.DefaultSquashIsMonotone := by
  intro d e hde
  rcases lt_or_ge d.toInt (-2047) with hd | hd
  · rw [squashDefault_below hd]
    exact Nat.zero_le _
  rcases lt_or_ge 2047 e.toInt with he | he
  · rw [squashDefault_above he]
    exact Nat.le_of_lt_succ (squashDefault d).isLt
  rw [squashDefault_between hd (hde.trans he), squashDefault_between (hd.trans hde) he]
  exact knotMean_le_knotMean (by omega) (by omega) (by omega) (by omega)

/-! ### The default `HSTEP` forgets -/

theorem hstepDefault_toNat (h : Hash24) (c : Word) :
    (hstepDefault h c).toNat = (h.toNat * 43707 * 16 + c.toNat) % 2 ^ 24 := by
  have hh := h.isLt
  have hfactor : (43707 : Word).toNat = 43707 := rfl
  rw [hstepDefault, BitVec.toNat_setWidth, BitVec.toNat_add, BitVec.toNat_shiftLeft, BitVec.toNat_mul,
    BitVec.toNat_setWidth, hfactor, Nat.shiftLeft_eq]
  omega

/-- One byte shifted into `c4`, and the default match hash stepped on the new `c4` (R146, R160). -/
def absorbDefault (s : Hash24 × Word) (v : Byte) : Hash24 × Word :=
  (hstepDefault s.1 (s.2 <<< 8 ||| v.setWidth 32), s.2 <<< 8 ||| v.setWidth 32)

/-- The hash and `c4` of two histories agree in their low `n` bits. -/
def AgreeBelow (n : Nat) (s t : Hash24 × Word) : Prop :=
  s.1.toNat ≡ t.1.toNat [MOD 2 ^ n] ∧ s.2.toNat ≡ t.2.toNat [MOD 2 ^ n]

/-- Two histories that agree below `n` agree below `n + 4` after bytes that do. -/
theorem AgreeBelow.absorb {n : Nat} {s t : Hash24 × Word} (hn : n + 4 ≤ 24) {v u : Byte}
    (hv : v.toNat ≡ u.toNat [MOD 2 ^ (n + 4)]) (h : AgreeBelow n s t) :
    AgreeBelow (n + 4) (absorbDefault s v) (absorbDefault t u) := by
  obtain ⟨hhash, hc4⟩ := h
  have hshift (c : Word) (x : Byte) :
      (c <<< 8 ||| x.setWidth 32).toNat ≡ c.toNat * 2 ^ 8 + x.toNat [MOD 2 ^ (n + 4)] := by
    rw [shiftIn_toNat c 8 x x.isLt (by norm_num)]
    exact (Nat.mod_modEq _ _).of_dvd (Nat.pow_dvd_pow 2 (by omega))
  have hnew : (s.2 <<< 8 ||| v.setWidth 32).toNat ≡ (t.2 <<< 8 ||| u.setWidth 32).toNat [MOD 2 ^ (n + 4)] := by
    have hmoved : s.2.toNat * 2 ^ 8 ≡ t.2.toNat * 2 ^ 8 [MOD 2 ^ (n + 8)] := by
      rw [pow_add]
      exact hc4.mul_right' (2 ^ 8)
    have hkept := hmoved.of_dvd (Nat.pow_dvd_pow 2 (show n + 4 ≤ n + 8 by omega))
    exact (hshift _ _).trans ((hkept.add hv).trans (hshift _ _).symm)
  have hproduct : s.1.toNat * 43707 * 16 ≡ t.1.toNat * 43707 * 16 [MOD 2 ^ (n + 4)] := by
    rw [pow_add]
    exact (hhash.mul_right 43707).mul_right' 16
  refine ⟨?_, hnew⟩
  rw [absorbDefault, absorbDefault, hstepDefault_toNat, hstepDefault_toNat]
  have hdvd : 2 ^ (n + 4) ∣ 2 ^ 24 := Nat.pow_dvd_pow 2 hn
  exact ((Nat.mod_modEq _ _).of_dvd hdvd).trans ((hproduct.add hnew).trans ((Nat.mod_modEq _ _).of_dvd hdvd).symm)

theorem AgreeBelow.absorb_same {n : Nat} {s t : Hash24 × Word} (hn : n + 4 ≤ 24) (v : Byte) (h : AgreeBelow n s t) :
    AgreeBelow (n + 4) (absorbDefault s v) (absorbDefault t v) := h.absorb hn rfl

/-- Settles O59: any two histories agree below 0, and each of the six bytes adds four bits. -/
theorem defaultMatchHashForgets : Obligations.DefaultMatchHashForgets := by
  intro h h' c c' b b' b1 b2 b3 b4 b5 hb
  have hlow : b.toNat ≡ b'.toNat [MOD 2 ^ (0 + 4)] := by
    have heq := congrArg BitVec.toNat hb
    rwa [BitVec.toNat_and, BitVec.toNat_and, show (15 : Byte).toNat = 2 ^ 4 - 1 from rfl,
      Nat.and_two_pow_sub_one_eq_mod, Nat.and_two_pow_sub_one_eq_mod] at heq
  have hstart : AgreeBelow 0 (h, c) (h', c') := ⟨Nat.modEq_one, Nat.modEq_one⟩
  have hend := (((((hstart.absorb (by norm_num) hlow).absorb_same (by norm_num) b1).absorb_same (by norm_num)
    b2).absorb_same (by norm_num) b3).absorb_same (by norm_num) b4).absorb_same (by norm_num) b5
  exact BitVec.eq_of_toNat_eq (hend.1.eq_of_lt_of_lt (BitVec.isLt _) (BitVec.isLt _))

/-! ### Corner values of the hash functions -/

theorem asr_zero (n : Nat) : asr 0 n = 0 := BitVec.zero_sshiftRight

/-- With two equal arguments the products cancel (R151). -/
theorem hashTPAQ_self (x : Word) : hashTPAQ x x = x.sshiftRight 2 ^^^ x.sshiftRight 3 ^^^ 200002979#32 := by
  rw [hashTPAQ, BitVec.xor_self]
  change asr 0 1 ^^^ asr 0 9 ^^^ _ ^^^ _ ^^^ _ = _
  rw [asr_zero, asr_zero, BitVec.xor_self, BitVec.zero_xor]
  rfl

/-- At 0 only the identifier is mixed in (R153). -/
theorem addContext_zero (id : Word) : addContext id 0 = id.rotateLeft 16 * 123456791#32 + id := by
  rw [addContext, rot16_eq_rotateLeft]
  change (0#32 * mulK1 + id).rotateLeft 16 * _ + _ = _
  rw [BitVec.zero_mul, BitVec.zero_add]
  rfl

/-- An identifier of one half word has nothing to rotate down (R153). -/
theorem rotateLeft_of_lt {id : Word} (h : id.toNat < 2 ^ 16) : id.rotateLeft 16 = id <<< 16 := by
  have hlow : lsr id 16 = 0 := by
    apply BitVec.eq_of_toNat_eq
    rw [lsr, BitVec.toNat_ushiftRight, Nat.shiftRight_eq_div_pow]
    exact Nat.div_eq_of_lt h
  rw [← rot16_eq_rotateLeft, rot16, hlow]
  exact BitVec.or_zero

/-- Two rotations by half a word are a whole turn (R154). -/
theorem rot16_rot16 (t : Word) : rot16 (rot16 t) = t := by
  ext i hi
  have hbit := BitVec.getLsbD_eq_getElem (x := t) hi
  have hout : t.getLsbD (16 + (16 + i)) = false := BitVec.getLsbD_of_ge t _ (by omega)
  by_cases h : i < 16
  · simp [rot16, lsr, h, hout, show 16 + i < 32 by omega]
  · simp [rot16, lsr, h, hbit, hout, show i - 16 < 16 by omega, show 16 + (i - 16) = i by omega,
      show ¬16 + i < 32 by omega]

/-- Settles O60, corner by corner. -/
theorem hashCornersAsStated : Obligations.HashCornersAsStated := by
  refine ⟨hashTPAQ_self, hashTPAQ_self 0, addContext_zero 0, fun id _ hid => ?_, addContext_zero, rot16_eq_rotateLeft,
    rot16_rot16⟩
  rw [addContext_zero, rotateLeft_of_lt (by omega)]

end Sys2Proof.Machine

/-! ## The worked example (R125)

`UPD 1` at reset completes no byte, so the registers are those of a folded bit. All seven pointers name slot 0 on entry
and slot 3 after the command; training adds the error to the skew alone, for every cached input is 0. With the default
tables the lookup then reads two cells of the grid that no training has touched. -/

namespace Sys2Proof.Machine

theorem updAccepted_reset : UpdAccepted State.reset := updAccepted_of_pos_ne (by decide)

section
variable (r : Rom)

theorem firstUpd_bitFolded : BitFolded 1 State.reset (updState r 1 State.reset) :=
  updState_bitFolded r 1 State.reset (by decide)

theorem firstUpd_c0 : (updState r 1 State.reset).c0 = 3 := BitVec.eq_of_toNat_eq (firstUpd_bitFolded r).c0

theorem firstUpd_c4 : (updState r 1 State.reset).c4 = 0 := (firstUpd_bitFolded r).c4

theorem firstUpd_mixIdx : (updState r 1 State.reset).mixIdx.toNat = 0 :=
  congrArg BitVec.toNat (firstUpd_bitFolded r).mixIdx

theorem firstUpd_cp (k : Fin 7) : (updState r 1 State.reset).cp[k] = 3 := by
  have hsl : (updState r 1 State.reset).sl = .sl28 := by
    simp only [updState_taken]
    rfl
  have hctx : (updState r 1 State.reset).ctx[k] = 0 := by
    rw [(firstUpd_bitFolded r).ctx]
    exact initial_ctx _ _ k
  rw [updState_cp, hsl, hctx, firstUpd_c0]
  decide

/-- The seven coinciding pointers advance slot 0 seven times (R133). -/
theorem firstUpd_slot_zero : (updState r 1 State.reset).slot 0 = (r.transition 1)^[7] 0 := by
  have hcount : (List.finRange 7).countP (fun k : Fin 7 => State.reset.cp[k].toNat == 0) = 7 := by decide
  rw [updState_slot_of_entry, hcount]
  rfl

theorem firstUpd_slot_three : (updState r 1 State.reset).slot 3 = 0 :=
  updState_slot_of_unnamed r 1 (by decide)

/-! ### The mixer -/

/-- What training the reset record on a 1 leaves (R198). -/
theorem initial_trained : (Mixer.initial.train 1).skew = 122880 ∧ (Mixer.initial.train 1).learnRate = 7679 ∧
    ∀ i : Fin 8, (Mixer.initial.train 1).w[i] = 2048 := by
  decide

theorem firstUpd_mixer_trained : ((updState r 1 State.reset).mixer 0).skew = 122880 ∧
    ((updState r 1 State.reset).mixer 0).learnRate = 7679 ∧
    ∀ i : Fin 8, ((updState r 1 State.reset).mixer 0).w[i] = 2048 := by
  obtain ⟨hw, hskew, hrate⟩ := updState_trained r 1 State.reset
  change ((updState r 1 State.reset).mixer 0).w = (Mixer.initial.train 1).w at hw
  change ((updState r 1 State.reset).mixer 0).skew = (Mixer.initial.train 1).skew at hskew
  change ((updState r 1 State.reset).mixer 0).learnRate = (Mixer.initial.train 1).learnRate at hrate
  rw [hw, hskew, hrate]
  exact initial_trained

theorem firstUpd_mapInput (k : Fin 7) : ((updState r 1 State.reset).mixer 0).p[k.val] = r.stateMap k 0 := by
  have hmap := updState_mapInput r 1 State.reset k
  rwa [firstUpd_mixIdx, mapInput, firstUpd_cp, show (3 : BitVec 29).toNat = 3 from rfl, firstUpd_slot_three] at hmap

theorem firstUpd_matchInput : ((updState r 1 State.reset).mixer 0).p[7] = 0 := by
  have hinput := updState_matchInput r 1 (s := State.reset)
  have hdead : (updState r 1 State.reset).matchLen = 0 := by
    rw [updState_matchLen_inside r 1 (by decide)]
    exact ite_self _
  rwa [firstUpd_mixIdx, hdead, signedStrength, if_pos rfl] at hinput

/-- Inputs of 0 leave only the skew of the sum (R196). -/
theorem dotProduct_of_inputs_zero (m : Mixer) {p : Vector Word 8} (hp : ∀ i : Fin 8, p[i] = 0) :
    dotProduct m p = m.skew := by
  have hproduct (i : Fin 8) : m.w[i] * p[i] = 0 := by
    rw [hp]
    exact BitVec.mul_zero
  rw [dotProduct_eq_sum, Finset.sum_eq_zero fun i _ => hproduct i]
  exact BitVec.zero_add _

/-- With the virgin state mapped to 0 every input is 0, and the sum is the skew (R196). -/
theorem firstUpd_mixOutput (hmap : ∀ k : Fin 7, r.stateMap k 0 = 0) :
    ((updState r 1 State.reset).mixer 0).pr = r.squash 1 := by
  have houtput := updState_mixOutput r 1 State.reset
  have hzero : ∀ i : Fin 8, ((updState r 1 State.reset).mixer 0).p[i] = 0 := by
    refine Fin.lastCases (firstUpd_matchInput r) fun k => ?_
    exact (firstUpd_mapInput r k).trans (hmap k)
  rw [firstUpd_mixIdx] at houtput
  rw [houtput, mixOutput, dotProduct_of_inputs_zero _ hzero, (firstUpd_mixer_trained r).1]
  congr 1
end

/-! ### The prediction under the defaults -/

/-- 1 is the first argument whose default `SQUASH` reaches 2051 (R203). -/
theorem stretchDefault_2051 : stretchDefault 2051 = 1 := by
  obtain ⟨hlow, hhigh, hbelow, hstop⟩ := stretchDefault_spec 2051
  have hle : (stretchDefault 2051).toInt ≤ 1 := by
    by_contra hgt
    exact absurd (hbelow 1 (by norm_num) (by omega)) (by decide)
  have hge : 1 ≤ (stretchDefault 2051).toInt := by
    by_contra hlt
    have hreach : 2051 ≤ (squashDefault (stretchDefault 2051)).toNat := hstop (by omega)
    have hmono := defaultSquashIsMonotone (stretchDefault 2051) 0 (by change _ ≤ 0; omega)
    have hzero : (squashDefault 0).toNat = 2047 := by decide
    omega
  exact BitVec.eq_of_toInt_eq (hle.antisymm hge)

section
variable (T : Bit → Byte → Byte) (M : Fin 7 → Byte → Word)

theorem romWithDefaults_stretch (p : Prob) : (romWithDefaults T M).stretch p = stretchDefault p := rfl

theorem stretched_2051 : stretched (romWithDefaults T M) 2051 = 1 := by
  apply BitVec.eq_of_toInt_eq
  rw [stretched_toInt, romWithDefaults_stretch, stretchDefault_2051]
  decide

theorem apmReset_default (i : Nat) : apmReset (romWithDefaults T M) i =
    (squashDefault ((BitVec.ofNat 32 (i % 33) - 16) * 128)).setWidth 16 * 16 := rfl

theorem firstUpd_apmCell {i : Nat} (hi : 2 ≤ i) :
    (updState (romWithDefaults T M) 1 State.reset).apmCell (romWithDefaults T M) i =
      (squashDefault ((BitVec.ofNat 32 (i % 33) - 16) * 128)).setWidth 16 * 16 := by
  have hzero : State.reset.apmIdx.toNat = 0 := rfl
  rw [updState_apmCell_of_ne _ _ (by omega) (by omega), ← apmReset_default T M]
  exact initial_apmCell _ _ _ i

theorem firstUpd_mixOutput_default (hmap : ∀ k : Fin 7, M k 0 = 0) :
    ((updState (romWithDefaults T M) 1 State.reset).mixer 0).pr = 2051 :=
  (firstUpd_mixOutput (romWithDefaults T M) hmap).trans (by decide : squashDefault 1 = 2051)

theorem firstUpd_pr (hmap : ∀ k : Fin 7, M k 0 = 0) : (updState (romWithDefaults T M) 1 State.reset).pr = 2050 := by
  obtain ⟨hindex, hpr⟩ := updState_refined (romWithDefaults T M) 1 State.reset
  have hmix : ((updState (romWithDefaults T M) 1 State.reset).mixer
      (updState (romWithDefaults T M) 1 State.reset).mixIdx.toNat).pr = 2051 := by
    rw [firstUpd_mixIdx]
    exact firstUpd_mixOutput_default T M hmap
  rw [hmix, stretched_2051] at hindex hpr
  rw [firstUpd_c0, firstUpd_c4] at hindex
  have hidx : (updState (romWithDefaults T M) 1 State.reset).apmIdx.toNat = 115 := by
    rw [hindex]
    decide
  rw [hpr, hidx, firstUpd_apmCell T M (by norm_num), firstUpd_apmCell T M (by norm_num)]
  decide
end

/-- Settles O20, unit by unit. -/
theorem firstUpdateFollowsTheWorkedExample : Obligations.FirstUpdateFollowsTheWorkedExample := by
  refine ⟨exec_upd 1 State.reset, fun r => ?all, fun T M hmap => ?defaults⟩
  case all =>
    obtain ⟨hskew, hrate, hw⟩ := firstUpd_mixer_trained r
    rw [updWith_accepted r 1 updAccepted_reset]
    simp only [State.respond_c0, State.respond_bpos, State.slot_respond, State.respond_cp, State.mixer_respond]
    exact ⟨firstUpd_c0 r, (firstUpd_bitFolded r).bpos, firstUpd_slot_zero r, firstUpd_cp r, firstUpd_slot_three r,
      hskew, hrate, hw, firstUpd_mapInput r, firstUpd_matchInput r, firstUpd_mixOutput r⟩
  case defaults =>
    rw [updWith_accepted _ 1 updAccepted_reset, State.mixer_respond, State.respond_pr]
    exact ⟨firstUpd_mixOutput_default T M hmap, firstUpd_pr T M hmap⟩

end Sys2Proof.Machine
